-- ==== Sys2Proof/Word.lean ====
section
/-! DEFINITION. The value types of the machine: bytes, words, 12-bit addresses, register and key numbers
(spec/00_scope.md R5, spec/30_encoding.md R64). All values are unsigned (R8). -/

namespace Sys2Proof

/-- An 8-bit value: a general register, a memory byte, a timer, the field NN (R5, R64). -/
abbrev Byte := BitVec 8

/-- A 16-bit value: `I`, `PC`, a stack entry, an instruction word (R5, R63). -/
abbrev Word := BitVec 16

/-- The field NNN, a 12-bit address or target (R64). -/
abbrev Addr := BitVec 12

/-- The number of a general register, V0 to VF (R10). -/
abbrev Reg := Fin 16

/-- The number of a key, 0 to 15 (R22). -/
abbrev Key := Fin 16

end Sys2Proof
end

