-- ==== Sys2Proof/Syntax.lean ====
section
/-! DEFINITION. The instruction set: one constructor for each of the 34 rows of spec/opcode_table.json
(spec/30_encoding.md R67), with the fields of R64 the row's pattern names, and the names and the listing syntax of R76,
which no rule depends on. -/

namespace Sys2Proof

/-- An instruction. `x`, `y` are register numbers, `nn` an 8-bit immediate, `nnn` a 12-bit address, `n` a row count. -/
inductive Instr where
  /-- `00E0` CLS, R120. -/
  | cls
  /-- `00EE` RET, R80. -/
  | ret
  /-- `1NNN` JP, R81. -/
  | jp (nnn : Addr)
  /-- `2NNN` CALL, R82. -/
  | call (nnn : Addr)
  /-- `3XNN` SE_IMM, R83. -/
  | seImm (x : Reg) (nn : Byte)
  /-- `4XNN` SNE_IMM, R84. -/
  | sneImm (x : Reg) (nn : Byte)
  /-- `5XY0` SE_REG, R85. -/
  | seReg (x y : Reg)
  /-- `6XNN` LD_IMM, R90. -/
  | ldImm (x : Reg) (nn : Byte)
  /-- `7XNN` ADD_IMM, R91. -/
  | addImm (x : Reg) (nn : Byte)
  /-- `8XY0` LD_REG, R92. -/
  | ldReg (x y : Reg)
  /-- `8XY1` OR, R93. -/
  | orReg (x y : Reg)
  /-- `8XY2` AND, R94. -/
  | andReg (x y : Reg)
  /-- `8XY3` XOR, R95. -/
  | xorReg (x y : Reg)
  /-- `8XY4` ADD_REG, R96. -/
  | addReg (x y : Reg)
  /-- `8XY5` SUB, R97. -/
  | sub (x y : Reg)
  /-- `8XY6` SHR, R98. The Y field is in the encoding and the hardware ignores it. -/
  | shr (x y : Reg)
  /-- `8XY7` SUBN, R99. -/
  | subn (x y : Reg)
  /-- `8XYE` SHL, R100. The Y field is in the encoding and the hardware ignores it. -/
  | shl (x y : Reg)
  /-- `9XY0` SNE_REG, R86. -/
  | sneReg (x y : Reg)
  /-- `ANNN` LD_I, R110. -/
  | ldI (nnn : Addr)
  /-- `BNNN` JP_V0, R87. -/
  | jpV0 (nnn : Addr)
  /-- `CXNN` RND, R105. -/
  | rnd (x : Reg) (nn : Byte)
  /-- `DXYN` DRW, R121. `n` is the number of sprite rows. -/
  | drw (x y : Reg) (n : Nat)
  /-- `EX9E` SKP, R130. -/
  | skp (x : Reg)
  /-- `EXA1` SKNP, R131. -/
  | sknp (x : Reg)
  /-- `FX07` LD_VX_DT, R132. -/
  | ldVxDt (x : Reg)
  /-- `FX0A` LD_VX_KEY, R133. -/
  | ldVxKey (x : Reg)
  /-- `FX15` LD_DT_VX, R134. -/
  | ldDtVx (x : Reg)
  /-- `FX18` LD_ST_VX, R135. -/
  | ldStVx (x : Reg)
  /-- `FX1E` ADD_I, R111. -/
  | addI (x : Reg)
  /-- `FX29` LD_FONT, R112. -/
  | ldFont (x : Reg)
  /-- `FX33` LD_BCD, R114. -/
  | ldBcd (x : Reg)
  /-- `FX55` ST_REGS, R115. `x` is the last register stored. -/
  | stRegs (x : Reg)
  /-- `FX65` LD_REGS, R116. `x` is the last register loaded. -/
  | ldRegs (x : Reg)
  deriving DecidableEq, Repr

/-- The unique identifier of an instruction (R76), the opcode table's mnemonic. -/
def Instr.identifier : Instr → String
  | .cls => "CLS"
  | .ret => "RET"
  | .jp _ => "JP"
  | .call _ => "CALL"
  | .seImm _ _ => "SE_IMM"
  | .sneImm _ _ => "SNE_IMM"
  | .seReg _ _ => "SE_REG"
  | .ldImm _ _ => "LD_IMM"
  | .addImm _ _ => "ADD_IMM"
  | .ldReg _ _ => "LD_REG"
  | .orReg _ _ => "OR"
  | .andReg _ _ => "AND"
  | .xorReg _ _ => "XOR"
  | .addReg _ _ => "ADD_REG"
  | .sub _ _ => "SUB"
  | .shr _ _ => "SHR"
  | .subn _ _ => "SUBN"
  | .shl _ _ => "SHL"
  | .sneReg _ _ => "SNE_REG"
  | .ldI _ => "LD_I"
  | .jpV0 _ => "JP_V0"
  | .rnd _ _ => "RND"
  | .drw _ _ _ => "DRW"
  | .skp _ => "SKP"
  | .sknp _ => "SKNP"
  | .ldVxDt _ => "LD_VX_DT"
  | .ldVxKey _ => "LD_VX_KEY"
  | .ldDtVx _ => "LD_DT_VX"
  | .ldStVx _ => "LD_ST_VX"
  | .addI _ => "ADD_I"
  | .ldFont _ => "LD_FONT"
  | .ldBcd _ => "LD_BCD"
  | .stRegs _ => "ST_REGS"
  | .ldRegs _ => "LD_REGS"

/-- One hexadecimal digit, as text. -/
def hexDigit (d : Nat) : String :=
  match d with
  | 0 => "0" | 1 => "1" | 2 => "2" | 3 => "3" | 4 => "4" | 5 => "5" | 6 => "6" | 7 => "7"
  | 8 => "8" | 9 => "9" | 10 => "A" | 11 => "B" | 12 => "C" | 13 => "D" | 14 => "E" | _ => "F"

/-- The low `k` hexadecimal digits of a number, most significant first. -/
def hexDigits : Nat → Nat → String
  | 0, _ => ""
  | k + 1, n => hexDigits k (n / 16) ++ hexDigit (n % 16)

/-- A register as R76 writes it. -/
def regText (x : Reg) : String := "V" ++ hexDigit x.val

/-- A number of `k` hexadecimal digits as R76 writes it. -/
def numText (k n : Nat) : String := "0x" ++ hexDigits k n

/-- The listing syntax of R76 (the spec's own choice, D20; no rule depends on it). SHR and SHL name Vy where the Y field is
not 0. -/
def Instr.listing : Instr → String
  | .cls => "CLS"
  | .ret => "RET"
  | .jp nnn => "JP " ++ numText 3 nnn.toNat
  | .call nnn => "CALL " ++ numText 3 nnn.toNat
  | .seImm x nn => "SE " ++ regText x ++ ", " ++ numText 2 nn.toNat
  | .sneImm x nn => "SNE " ++ regText x ++ ", " ++ numText 2 nn.toNat
  | .seReg x y => "SE " ++ regText x ++ ", " ++ regText y
  | .ldImm x nn => "LD " ++ regText x ++ ", " ++ numText 2 nn.toNat
  | .addImm x nn => "ADD " ++ regText x ++ ", " ++ numText 2 nn.toNat
  | .ldReg x y => "LD " ++ regText x ++ ", " ++ regText y
  | .orReg x y => "OR " ++ regText x ++ ", " ++ regText y
  | .andReg x y => "AND " ++ regText x ++ ", " ++ regText y
  | .xorReg x y => "XOR " ++ regText x ++ ", " ++ regText y
  | .addReg x y => "ADD " ++ regText x ++ ", " ++ regText y
  | .sub x y => "SUB " ++ regText x ++ ", " ++ regText y
  | .shr x y => "SHR " ++ regText x ++ (if y = 0 then "" else ", " ++ regText y)
  | .subn x y => "SUBN " ++ regText x ++ ", " ++ regText y
  | .shl x y => "SHL " ++ regText x ++ (if y = 0 then "" else ", " ++ regText y)
  | .sneReg x y => "SNE " ++ regText x ++ ", " ++ regText y
  | .ldI nnn => "LD I, " ++ numText 3 nnn.toNat
  | .jpV0 nnn => "JP V0, " ++ numText 3 nnn.toNat
  | .rnd x nn => "RND " ++ regText x ++ ", " ++ numText 2 nn.toNat
  | .drw x y n => "DRW " ++ regText x ++ ", " ++ regText y ++ ", " ++ numText 1 n
  | .skp x => "SKP " ++ regText x
  | .sknp x => "SKNP " ++ regText x
  | .ldVxDt x => "LD " ++ regText x ++ ", DT"
  | .ldVxKey x => "LD " ++ regText x ++ ", K"
  | .ldDtVx x => "LD DT, " ++ regText x
  | .ldStVx x => "LD ST, " ++ regText x
  | .addI x => "ADD I, " ++ regText x
  | .ldFont x => "LD F, " ++ regText x
  | .ldBcd x => "LD B, " ++ regText x
  | .stRegs x => "LD [I], " ++ regText x
  | .ldRegs x => "LD " ++ regText x ++ ", [I]"

/-- A word no row covers, as R76 writes a raw word. -/
def wordListing (op : Word) : String := "DW " ++ numText 4 op.toNat

end Sys2Proof
end

