-- ==== Sys2Proof/WellFormed.lean ====
section
/-! DEFINITION. When an instruction term is one the encoding can hold (spec/30_encoding.md R64, R66). Register numbers,
immediates and addresses are of the field's own width by their types; the one count, DXYN's N, is checked here. -/

namespace Sys2Proof

/-- The row count of DXYN is the 4-bit field N, 0 to 15 (R66); every other field fits by its type. -/
def Instr.wellFormed : Instr → Bool
  | .drw _ _ n => decide (n < 16)
  | .cls | .ret | .jp _ | .call _ | .seImm _ _ | .sneImm _ _ | .seReg _ _ | .ldImm _ _ | .addImm _ _ => true
  | .ldReg _ _ | .orReg _ _ | .andReg _ _ | .xorReg _ _ | .addReg _ _ | .sub _ _ | .shr _ _ | .subn _ _ => true
  | .shl _ _ | .sneReg _ _ | .ldI _ | .jpV0 _ | .rnd _ _ | .skp _ | .sknp _ | .ldVxDt _ | .ldVxKey _ => true
  | .ldDtVx _ | .ldStVx _ | .addI _ | .ldFont _ | .ldBcd _ | .stRegs _ | .ldRegs _ => true

end Sys2Proof
end

