-- ==== Sys2Proof/Decode.lean ====
section
/-! DEFINITION. Decoding and encoding (spec/30_encoding.md R63 to R70, R75): the fields of a word, the decoder of a word and of
bytes, total and refusing by name, the encoder, and the opcode map of R67 as rows of match and mask. -/

namespace Sys2Proof

/-- Why bytes give no instruction. -/
inductive Reject where
  /-- Fewer than the two bytes of an instruction (R63). -/
  | tooShort
  /-- The word matches no row of R67 (R69). -/
  | unknownInstruction (op : Word)
  deriving DecidableEq, Repr

/-- The field G, bits 15 to 12 (R64). -/
def fieldG (op : Word) : BitVec 4 := op.extractLsb' 12 4
/-- The field X as a register number, bits 11 to 8 (R64). -/
def fieldX (op : Word) : Reg := (op.extractLsb' 8 4).toFin
/-- The field Y as a register number, bits 7 to 4 (R64). -/
def fieldY (op : Word) : Reg := (op.extractLsb' 4 4).toFin
/-- The field N, bits 3 to 0 (R64). -/
def fieldN (op : Word) : BitVec 4 := op.extractLsb' 0 4
/-- The field NN, bits 7 to 0 (R64). -/
def fieldNN (op : Word) : Byte := op.extractLsb' 0 8
/-- The field NNN, bits 11 to 0 (R64). -/
def fieldNNN (op : Word) : Addr := op.extractLsb' 0 12

/-- Group 0: two single words (R67, R70). -/
def decodeGroup0 (op : Word) : Except Reject Instr :=
  if op = 0x00E0 then .ok .cls
  else if op = 0x00EE then .ok .ret
  else .error (.unknownInstruction op)

/-- Group 8: the low nibble selects the operation (R67, R68). -/
def decodeGroup8 (op : Word) : Except Reject Instr :=
  match (fieldN op).toNat with
  | 0x0 => .ok (.ldReg (fieldX op) (fieldY op))
  | 0x1 => .ok (.orReg (fieldX op) (fieldY op))
  | 0x2 => .ok (.andReg (fieldX op) (fieldY op))
  | 0x3 => .ok (.xorReg (fieldX op) (fieldY op))
  | 0x4 => .ok (.addReg (fieldX op) (fieldY op))
  | 0x5 => .ok (.sub (fieldX op) (fieldY op))
  | 0x6 => .ok (.shr (fieldX op) (fieldY op))
  | 0x7 => .ok (.subn (fieldX op) (fieldY op))
  | 0xE => .ok (.shl (fieldX op) (fieldY op))
  | _ => .error (.unknownInstruction op)

/-- Group E: the low byte selects the operation (R67, R70). -/
def decodeGroupE (op : Word) : Except Reject Instr :=
  if fieldNN op = 0x9E then .ok (.skp (fieldX op))
  else if fieldNN op = 0xA1 then .ok (.sknp (fieldX op))
  else .error (.unknownInstruction op)

/-- Group F: the low byte selects the operation (R67, R70). -/
def decodeGroupF (op : Word) : Except Reject Instr :=
  if fieldNN op = 0x07 then .ok (.ldVxDt (fieldX op))
  else if fieldNN op = 0x0A then .ok (.ldVxKey (fieldX op))
  else if fieldNN op = 0x15 then .ok (.ldDtVx (fieldX op))
  else if fieldNN op = 0x18 then .ok (.ldStVx (fieldX op))
  else if fieldNN op = 0x1E then .ok (.addI (fieldX op))
  else if fieldNN op = 0x29 then .ok (.ldFont (fieldX op))
  else if fieldNN op = 0x33 then .ok (.ldBcd (fieldX op))
  else if fieldNN op = 0x55 then .ok (.stRegs (fieldX op))
  else if fieldNN op = 0x65 then .ok (.ldRegs (fieldX op))
  else .error (.unknownInstruction op)

/-- The instruction a word encodes: the top nibble selects the group, and every fixed digit of a pattern is compared
(R67, R70); any other word is refused (R69). It depends on the word alone (R75). -/
def decodeWord (op : Word) : Except Reject Instr :=
  match (fieldG op).toNat with
  | 0x0 => decodeGroup0 op
  | 0x1 => .ok (.jp (fieldNNN op))
  | 0x2 => .ok (.call (fieldNNN op))
  | 0x3 => .ok (.seImm (fieldX op) (fieldNN op))
  | 0x4 => .ok (.sneImm (fieldX op) (fieldNN op))
  | 0x5 => if fieldN op = 0 then .ok (.seReg (fieldX op) (fieldY op)) else .error (.unknownInstruction op)
  | 0x6 => .ok (.ldImm (fieldX op) (fieldNN op))
  | 0x7 => .ok (.addImm (fieldX op) (fieldNN op))
  | 0x8 => decodeGroup8 op
  | 0x9 => if fieldN op = 0 then .ok (.sneReg (fieldX op) (fieldY op)) else .error (.unknownInstruction op)
  | 0xA => .ok (.ldI (fieldNNN op))
  | 0xB => .ok (.jpV0 (fieldNNN op))
  | 0xC => .ok (.rnd (fieldX op) (fieldNN op))
  | 0xD => .ok (.drw (fieldX op) (fieldY op) (fieldN op).toNat)
  | 0xE => decodeGroupE op
  | _ => decodeGroupF op

/-- The word two bytes make, the byte at the lower address the more significant (R46, R63). -/
def wordOfBytes (hi lo : Byte) : Word := hi ++ lo

/-- The more significant byte of a word. -/
def highByte (op : Word) : Byte := op.extractLsb' 8 8
/-- The less significant byte of a word. -/
def lowByte (op : Word) : Byte := op.extractLsb' 0 8

/-- The instruction at the head of a list of bytes, and the bytes after it (R63). -/
def decodeBytes : List Byte → Except Reject (Instr × List Byte)
  | hi :: lo :: rest =>
    match decodeWord (wordOfBytes hi lo) with
    | .ok i => .ok (i, rest)
    | .error r => .error r
  | [] => .error .tooShort
  | [_] => .error .tooShort

/-! The encoder, written from the same formats (R65). -/

/-- Format FA: `G NNN`. -/
def packFA (g : BitVec 4) (nnn : Addr) : Word := g ++ nnn
/-- Format FXI: `G X NN`. -/
def packFXI (g : BitVec 4) (x : Reg) (nn : Byte) : Word := g ++ (BitVec.ofFin (w := 4) x ++ nn)
/-- Formats FXY and FXYN: `G X Y N`. -/
def packFXYN (g : BitVec 4) (x y : Reg) (n : BitVec 4) : Word :=
  g ++ (BitVec.ofFin (w := 4) x ++ (BitVec.ofFin (w := 4) y ++ n))

/-- The word of an instruction (R67). -/
def encode : Instr → Word
  | .cls => 0x00E0
  | .ret => 0x00EE
  | .jp nnn => packFA 0x1 nnn
  | .call nnn => packFA 0x2 nnn
  | .seImm x nn => packFXI 0x3 x nn
  | .sneImm x nn => packFXI 0x4 x nn
  | .seReg x y => packFXYN 0x5 x y 0x0
  | .ldImm x nn => packFXI 0x6 x nn
  | .addImm x nn => packFXI 0x7 x nn
  | .ldReg x y => packFXYN 0x8 x y 0x0
  | .orReg x y => packFXYN 0x8 x y 0x1
  | .andReg x y => packFXYN 0x8 x y 0x2
  | .xorReg x y => packFXYN 0x8 x y 0x3
  | .addReg x y => packFXYN 0x8 x y 0x4
  | .sub x y => packFXYN 0x8 x y 0x5
  | .shr x y => packFXYN 0x8 x y 0x6
  | .subn x y => packFXYN 0x8 x y 0x7
  | .shl x y => packFXYN 0x8 x y 0xE
  | .sneReg x y => packFXYN 0x9 x y 0x0
  | .ldI nnn => packFA 0xA nnn
  | .jpV0 nnn => packFA 0xB nnn
  | .rnd x nn => packFXI 0xC x nn
  | .drw x y n => packFXYN 0xD x y (BitVec.ofNat 4 n)
  | .skp x => packFXI 0xE x 0x9E
  | .sknp x => packFXI 0xE x 0xA1
  | .ldVxDt x => packFXI 0xF x 0x07
  | .ldVxKey x => packFXI 0xF x 0x0A
  | .ldDtVx x => packFXI 0xF x 0x15
  | .ldStVx x => packFXI 0xF x 0x18
  | .addI x => packFXI 0xF x 0x1E
  | .ldFont x => packFXI 0xF x 0x29
  | .ldBcd x => packFXI 0xF x 0x33
  | .stRegs x => packFXI 0xF x 0x55
  | .ldRegs x => packFXI 0xF x 0x65

/-- The bytes of an instruction as memory holds them, high byte first (R63). -/
def encodeBytes (i : Instr) : List Byte := [highByte (encode i), lowByte (encode i)]

/-! The opcode map of R67 as data: the match and the mask of a row. A word is of the row when `op & mask = match`. -/

/-- Match and mask of an instruction's row of R67. -/
def rowOf : Instr → Word × Word
  | .cls => (0x00E0, 0xFFFF)
  | .ret => (0x00EE, 0xFFFF)
  | .jp _ => (0x1000, 0xF000)
  | .call _ => (0x2000, 0xF000)
  | .seImm _ _ => (0x3000, 0xF000)
  | .sneImm _ _ => (0x4000, 0xF000)
  | .seReg _ _ => (0x5000, 0xF00F)
  | .ldImm _ _ => (0x6000, 0xF000)
  | .addImm _ _ => (0x7000, 0xF000)
  | .ldReg _ _ => (0x8000, 0xF00F)
  | .orReg _ _ => (0x8001, 0xF00F)
  | .andReg _ _ => (0x8002, 0xF00F)
  | .xorReg _ _ => (0x8003, 0xF00F)
  | .addReg _ _ => (0x8004, 0xF00F)
  | .sub _ _ => (0x8005, 0xF00F)
  | .shr _ _ => (0x8006, 0xF00F)
  | .subn _ _ => (0x8007, 0xF00F)
  | .shl _ _ => (0x800E, 0xF00F)
  | .sneReg _ _ => (0x9000, 0xF00F)
  | .ldI _ => (0xA000, 0xF000)
  | .jpV0 _ => (0xB000, 0xF000)
  | .rnd _ _ => (0xC000, 0xF000)
  | .drw _ _ _ => (0xD000, 0xF000)
  | .skp _ => (0xE09E, 0xF0FF)
  | .sknp _ => (0xE0A1, 0xF0FF)
  | .ldVxDt _ => (0xF007, 0xF0FF)
  | .ldVxKey _ => (0xF00A, 0xF0FF)
  | .ldDtVx _ => (0xF015, 0xF0FF)
  | .ldStVx _ => (0xF018, 0xF0FF)
  | .addI _ => (0xF01E, 0xF0FF)
  | .ldFont _ => (0xF029, 0xF0FF)
  | .ldBcd _ => (0xF033, 0xF0FF)
  | .stRegs _ => (0xF055, 0xF0FF)
  | .ldRegs _ => (0xF065, 0xF0FF)

/-- The 34 rows of R67, in its order: match, then mask. -/
def opcodeRows : List (Word × Word) :=
  [(0x00E0, 0xFFFF), (0x00EE, 0xFFFF), (0x1000, 0xF000), (0x2000, 0xF000), (0x3000, 0xF000), (0x4000, 0xF000)] ++
  [(0x5000, 0xF00F), (0x6000, 0xF000), (0x7000, 0xF000), (0x8000, 0xF00F), (0x8001, 0xF00F), (0x8002, 0xF00F)] ++
  [(0x8003, 0xF00F), (0x8004, 0xF00F), (0x8005, 0xF00F), (0x8006, 0xF00F), (0x8007, 0xF00F), (0x800E, 0xF00F)] ++
  [(0x9000, 0xF00F), (0xA000, 0xF000), (0xB000, 0xF000), (0xC000, 0xF000), (0xD000, 0xF000), (0xE09E, 0xF0FF)] ++
  [(0xE0A1, 0xF0FF), (0xF007, 0xF0FF), (0xF00A, 0xF0FF), (0xF015, 0xF0FF), (0xF018, 0xF0FF), (0xF01E, 0xF0FF)] ++
  [(0xF029, 0xF0FF), (0xF033, 0xF0FF), (0xF055, 0xF0FF), (0xF065, 0xF0FF)]

/-- Does a word belong to a row of R67: `op & mask = match`. -/
def inRow (op : Word) (row : Word × Word) : Bool := decide (op &&& row.2 = row.1)

/-- The word of an instruction whose bits the opcode table numbers: one 16-bit word, bits above `nbits` zero. -/
def tableWord (nbits w : Nat) : Word := BitVec.ofNat 16 (w % 2 ^ nbits)

/-- The instruction this decoder reads from a table row's bits, laid out as memory holds them: high byte first (R63). -/
def decodeTableWord (nbits w : Nat) : Option Instr :=
  match decodeBytes [highByte (tableWord nbits w), lowByte (tableWord nbits w)] with
  | .ok (i, _) => some i
  | .error _ => none

end Sys2Proof
end

