-- ==== Sys2Proof/Config.lean ====
section
/-! DEFINITION. The fixed parameters of the hardware (spec/00_scope.md R5), the open parameters as constants without a
value (R6: FONT, RandByte), and the free values of the state a fatal error leaves (spec/60_exceptions.md R147). -/

namespace Sys2Proof

/-- MEM_SIZE: the number of bytes of the one address space (R5, R40). -/
@[simp] def Config.memSize : Nat := 4096

/-- PROG_BASE: where a program is loaded and where PC starts (R5, R41). -/
@[simp] def Config.progBase : Nat := 0x200

/-- MAX_ROM: the longest program Load accepts (R5, R53). -/
@[simp] def Config.maxRom : Nat := 3584

/-- GLYPH_BYTES times GLYPH_COUNT: the glyph table fills 0x000 to 0x04F (R5, R50). -/
@[simp] def Config.fontSize : Nat := 80

/-- STACK_CAP: how many return addresses the call stack holds (R5, R14). -/
@[simp] def Config.stackCap : Nat := 16

/-- FONT: the 80 glyph bytes that Reset copies to 0x000 to 0x04F, an open parameter of the hardware (R6, R51, D4).
It has no value here: nothing proved can rest on one. Only the indices 0 to 79 are used. Log entry 1. -/
opaque Config.font : Nat → Byte

/-- The default FONT that spec/20_memory.md R51 supplies from general knowledge (G1), glyph after glyph.
PRESUMED (log entry 1): no definition of the machine uses it; a claim about lit pixels may name it as its premise. -/
def Config.defaultFont : List Byte :=
  [0xF0, 0x90, 0x90, 0x90, 0xF0,  0x20, 0x60, 0x20, 0x20, 0x70] ++
  [0xF0, 0x10, 0xF0, 0x80, 0xF0,  0xF0, 0x10, 0xF0, 0x10, 0xF0] ++
  [0x90, 0x90, 0xF0, 0x10, 0x10,  0xF0, 0x80, 0xF0, 0x10, 0xF0] ++
  [0xF0, 0x80, 0xF0, 0x90, 0xF0,  0xF0, 0x10, 0x20, 0x40, 0x40] ++
  [0xF0, 0x90, 0xF0, 0x90, 0xF0,  0xF0, 0x90, 0xF0, 0x10, 0xF0] ++
  [0xF0, 0x90, 0xF0, 0x90, 0x90,  0xE0, 0x90, 0xE0, 0x90, 0xE0] ++
  [0xF0, 0x80, 0x80, 0x80, 0xF0,  0xE0, 0x90, 0x90, 0x90, 0xE0] ++
  [0xF0, 0x80, 0xF0, 0x80, 0xF0,  0xF0, 0x80, 0xF0, 0x80, 0x80]

/-- The premise "FONT is the default table", for a claim that assumes it (R51). -/
def Config.FontIsDefault : Prop := ∀ a < Config.fontSize, Config.defaultFont[a]? = some (Config.font a)

/-- RandByte: the byte that draw number `n` gives, constrained by nothing (R105, D17). Log entry 2. -/
opaque Config.randByte : Nat → Byte

/-! The state after fatal error number `n` is unspecified but for the error itself (R147): one constant without a value
for each piece of it, of the type the piece has (log entries 4, 6). -/

/-- The general registers after a fatal error. -/
opaque Config.fatalV : Nat → Vector Byte 16
/-- The index register after a fatal error. -/
opaque Config.fatalI : Nat → Word
/-- The program counter after a fatal error. -/
opaque Config.fatalPc : Nat → Word
/-- The stack entries after a fatal error. -/
opaque Config.fatalStack : Nat → Vector Word 16
/-- The stack depth after a fatal error. -/
opaque Config.fatalSp : Nat → Fin 17
/-- The byte at an address after a fatal error. -/
opaque Config.fatalMem : Nat → Nat → Byte
/-- The pixels after a fatal error. -/
opaque Config.fatalPx : Nat → Vector (Vector Bool 32) 64
/-- The dirty flag after a fatal error. -/
opaque Config.fatalDirty : Nat → Bool
/-- The delay counter after a fatal error. -/
opaque Config.fatalDt : Nat → Byte
/-- The sound counter after a fatal error. -/
opaque Config.fatalSt : Nat → Byte
/-- The pending tone-end event after a fatal error. -/
opaque Config.fatalToneEnd : Nat → Bool
/-- The key states after a fatal error. -/
opaque Config.fatalKeys : Nat → Vector Bool 16
/-- The wait state after a fatal error. -/
opaque Config.fatalAwaiting : Nat → Bool
/-- The latch's valid bit after a fatal error. -/
opaque Config.fatalLatchValid : Nat → Bool
/-- The latched key after a fatal error. -/
opaque Config.fatalLastKey : Nat → Key

end Sys2Proof
end

