-- ==== Sys2Proof/Machine/State.lean ====
section
/-! DEFINITION. The state of the machine: every piece spec/10_state.md gives it (R10 to R26), its value after reset (R30), and
the ways a move can stop. Plain data. -/

namespace Sys2Proof.Machine

/-- The fatal error kinds (spec/60_exceptions.md R140). -/
inductive FatalKind where
  /-- Load of more than 3584 bytes (R53), code 1. -/
  | romTooLarge
  /-- A byte access above 4095 by a fetch, DXYN, FX33, FX55 or FX65 (R141), code 2. -/
  | addressOutOfRange
  /-- 2NNN with 16 entries in use (R82), code 3. -/
  | stackOverflow
  /-- 00EE with an empty stack (R80), code 4. -/
  | stackUnderflow
  deriving DecidableEq, Repr

/-- The launch phase, ghost state (R26). -/
inductive Phase where
  /-- After Reset, before any Load or Step. -/
  | fresh
  /-- After the one Load. -/
  | loaded
  /-- After the first Step. -/
  | running
  deriving DecidableEq, Repr

/-- The 4096 bytes, as (address, byte) pairs in one canonical form (`Memory.wf`); an address not listed reads as its
reset contents (`Memory.unlisted`). -/
abbrev Memory := List Host.Cell

/-- The pixels px[x][y]: 64 columns of 32 bits, indexed by x and then y (R16). -/
abbrev Display := Vector (Vector Bool 32) 64

/-- The whole state. -/
structure State where
  /-- V[0] to V[15]; V[15] is VF (R10, R11). -/
  v : Vector Byte 16
  /-- The index register I (R12). -/
  i : Word
  /-- The program counter PC (R13). -/
  pc : Word
  /-- The entries of the call stack (R14). -/
  stack : Vector Word 16
  /-- SP, how many entries are valid, 0 to 16 (R14, R28). -/
  sp : Fin 17
  /-- The address space (R15). -/
  mem : Memory
  /-- The pixels (R16). -/
  px : Display
  /-- The dirty flag (R17). -/
  dirty : Bool
  /-- The delay counter DT (R18). -/
  dt : Byte
  /-- The sound counter ST (R19). -/
  st : Byte
  /-- The pending tone-end event (R21). -/
  toneEnd : Bool
  /-- The key states, true = pressed (R22). -/
  keys : Vector Bool 16
  /-- The wait state: false = Idle, true = AwaitingKey (R23). -/
  awaiting : Bool
  /-- Has a press been latched and not yet consumed (R24). -/
  latchValid : Bool
  /-- The last key pressed (R24). -/
  lastKey : Key
  /-- The error latch; `none` is the spec's `None` (R25). -/
  err : Option FatalKind
  /-- The launch phase (R26). -/
  phase : Phase
  /-- The MODEL's own field: the number of free values taken so far (log entry 3). -/
  draws : Nat
  deriving DecidableEq, Repr

/-- Why the machine stops with a fault: never. Every error of this hardware is a report or a fatal error whose entry the
spec describes (R140 to R145), so each is a next state; the type has no constructor (log entry 4). Safe: no stop is hidden. -/
inductive Fault where
  deriving DecidableEq, Repr

/-- Why a move has no meaning. -/
inductive Refusal where
  /-- Raised by an arm of `exec` whose instruction has no meaning yet. Safe: nothing can be proved of its effect. -/
  | notModelled (mnemonic : String)
  /-- Raised by the host move Load when the phase is not Fresh: no such move exists (R52, U9). Safe: the model stops. -/
  | loadNotEnabled
  /-- Raised by a host move other than Reset and Step on a halted machine: the spec gives it no effect (R147, U9).
  Safe: the model stops. -/
  | hostMoveAfterFatal
  deriving DecidableEq, Repr

/-- The machine right after Reset (R30, R170): memory lists nothing, so it reads as its reset contents. -/
def State.reset : State where
  v := Vector.replicate 16 0
  i := 0
  pc := 0x200
  stack := Vector.replicate 16 0
  sp := 0
  mem := []
  px := Vector.replicate 64 (Vector.replicate 32 false)
  dirty := false
  dt := 0
  st := 0
  toneEnd := false
  keys := Vector.replicate 16 false
  awaiting := false
  latchValid := false
  lastKey := 0
  err := none
  phase := .fresh
  draws := 0

end Sys2Proof.Machine
end

