-- ==== Sys2Proof/Machine/Ops.lean ====
section
/-! DEFINITION. The named operations over the state: memory, the byte accesses and the fetch (spec/20_memory.md), the PC update
(spec/30_encoding.md R72), the call stack (spec/10_state.md R14), the pixels (spec/43_display.md R122, R123), and the
entry of a fatal error (spec/60_exceptions.md R142, R147). -/

namespace Sys2Proof.Machine

/-! ## Memory as data -/

/-- What an address that memory does not list reads as: its reset contents, FONT in the glyph table and 0x00 above it
(R30, R51, D3; log entries 1, 7). -/
def Memory.unlisted (a : Nat) : Byte := if a < Config.fontSize then Config.font a else 0

/-- The byte at an address. -/
def Memory.read : Memory → Nat → Byte
  | [], a => Memory.unlisted a
  | (b, w) :: m, a => if a < b then Memory.unlisted a else if a = b then w else Memory.read m a

/-- Memory with one byte changed, in canonical form again: a byte equal to the reset contents is not listed. -/
def Memory.write : Memory → Nat → Byte → Memory
  | [], a, x => if x = Memory.unlisted a then [] else [(a, x)]
  | (b, w) :: m, a, x =>
    if a < b then (if x = Memory.unlisted a then (b, w) :: m else (a, x) :: (b, w) :: m)
    else if a = b then (if x = Memory.unlisted a then m else (a, x) :: m)
    else (b, w) :: Memory.write m a x

/-- The canonical form from address `lo` on: addresses rise strictly, lie in the address space, and no entry equals what
its address reads as when unlisted. -/
def Memory.wfFrom (lo : Nat) : Memory → Bool
  | [] => true
  | (a, x) :: m =>
    decide (lo ≤ a) && decide (a < Config.memSize) && decide (x ≠ Memory.unlisted a) && Memory.wfFrom (a + 1) m

/-- The canonical form of memory. -/
def Memory.wf (m : Memory) : Bool := Memory.wfFrom 0 m

/-- Consecutive bytes written from address `a` on, in ascending order. -/
def Memory.writeBytes (m : Memory) (a : Nat) : List Byte → Memory
  | [] => m
  | b :: bs => Memory.writeBytes (m.write a b) (a + 1) bs

/-- The memory whose first `n` bytes are `f 0` to `f (n - 1)`. -/
def Memory.fill (f : Nat → Byte) : Nat → Memory
  | 0 => []
  | n + 1 => (Memory.fill f n).write n (f n)

/-! ## Updates of one part of the state -/

/-- V[x] as it stands. -/
def State.reg (s : State) (x : Reg) : Byte := s.v.get x
/-- V[x] written (R9). -/
def State.setReg (s : State) (x : Reg) (b : Byte) : State := { s with v := s.v.set x.val b x.isLt }
/-- All registers written. -/
def State.setV (s : State) (v : Vector Byte 16) : State := { s with v := v }
/-- I written (R9). -/
def State.setI (s : State) (w : Word) : State := { s with i := w }
/-- PC written (R9). -/
def State.setPc (s : State) (w : Word) : State := { s with pc := w }
/-- The memory replaced. -/
def State.setMem (s : State) (m : Memory) : State := { s with mem := m }
/-- The pixels replaced and the display marked dirty (R17, R120, R121). -/
def State.setPx (s : State) (p : Display) : State := { s with px := p, dirty := true }
/-- DT written (R134). -/
def State.setDt (s : State) (b : Byte) : State := { s with dt := b }
/-- ST written (R135). -/
def State.setSt (s : State) (b : Byte) : State := { s with st := b }
/-- The launch phase written (R26, R71). -/
def State.setPhase (s : State) (p : Phase) : State := { s with phase := p }
/-- The wait state entered, the latch untouched (R133, R137). -/
def State.park (s : State) : State := { s with awaiting := true }
/-- The latched press consumed and the wait state left (R133, R137). -/
def State.consumeKey (s : State) : State := { s with latchValid := false, awaiting := false }
/-- One free value taken: the next draw is another one (R105). -/
def State.nextDraw (s : State) : State := { s with draws := s.draws + 1 }

/-! ## The PC update (R72) -/

/-- Case (a): past this instruction. -/
def State.advance (s : State) : State := s.setPc (s.pc + 2)
/-- Cases (a) and (b): past this instruction, and past the next one too when the condition holds. -/
def State.skipIf (s : State) (c : Bool) : State := s.setPc (if c then s.pc + 4 else s.pc + 2)

/-! ## The call stack (R14) -/

/-- The entry on top, stack[SP - 1]; meant where SP is not 0. -/
def State.top (s : State) : Word := s.stack.get ⟨s.sp.val - 1, by have := s.sp.isLt; omega⟩
/-- A return address pushed (R82). -/
def State.push (s : State) (w : Word) (h : s.sp.val < 16) : State :=
  { s with stack := s.stack.set s.sp.val w h, sp := ⟨s.sp.val + 1, by omega⟩ }
/-- The top entry popped; it keeps its value but is no longer valid (R80). -/
def State.pop (s : State) : State := { s with sp := ⟨s.sp.val - 1, by have := s.sp.isLt; omega⟩ }

/-! ## Errors -/

/-- `halted`: a fatal error is latched (R25). -/
def State.halted (s : State) : Bool := s.err.isSome

/-- Entry of a fatal error: the kind is latched, and all other state is unspecified (R142, R147), so each piece of it takes
a free value (log entries 4, 5, 6). -/
def State.raiseFatal (s : State) (k : FatalKind) : State where
  v := Config.fatalV s.draws
  i := Config.fatalI s.draws
  pc := Config.fatalPc s.draws
  stack := Config.fatalStack s.draws
  sp := Config.fatalSp s.draws
  mem := Memory.fill (Config.fatalMem s.draws) Config.memSize
  px := Config.fatalPx s.draws
  dirty := Config.fatalDirty s.draws
  dt := Config.fatalDt s.draws
  st := Config.fatalSt s.draws
  toneEnd := Config.fatalToneEnd s.draws
  keys := Config.fatalKeys s.draws
  awaiting := Config.fatalAwaiting s.draws
  latchValid := Config.fatalLatchValid s.draws
  lastKey := Config.fatalLastKey s.draws
  err := some k
  phase := s.phase
  draws := s.draws + 1

/-- How an instruction that may raise ends: in the state it reached, or in the entry of the error it raised. -/
def State.settle (s : State) : Except FatalKind State → Host.Outcome State Fault Refusal
  | .ok t => .next t
  | .error k => .next (s.raiseFatal k)

/-! ## Byte accesses (R42 to R46, R54) -/

/-- MemRead(addr, 1) (R43). -/
def State.memRead (s : State) (a : Nat) : Except FatalKind Byte :=
  if a < Config.memSize then .ok (s.mem.read a) else .error .addressOutOfRange

/-- MemWrite(addr, 1, v) (R44). -/
def State.memWrite (s : State) (a : Nat) (x : Byte) : Except FatalKind State :=
  if a < Config.memSize then .ok (s.setMem (s.mem.write a x)) else .error .addressOutOfRange

/-- `n` byte reads from address `a` on, ascending; the first that fails raises (R54). -/
def State.loadBytes (s : State) (a : Nat) : Nat → Except FatalKind (List Byte)
  | 0 => .ok []
  | n + 1 =>
    match s.memRead a with
    | .error k => .error k
    | .ok b =>
      match State.loadBytes s (a + 1) n with
      | .error k => .error k
      | .ok bs => .ok (b :: bs)

/-- Byte writes from address `a` on, ascending; the first that fails raises (R54). -/
def State.storeBytes (s : State) (a : Nat) : List Byte → Except FatalKind State
  | [] => .ok s
  | b :: bs =>
    match s.memWrite a b with
    | .error k => .error k
    | .ok t => State.storeBytes t (a + 1) bs

/-- Fetch(PC): two checked byte reads, the first byte the more significant (R46). -/
def State.fetch (s : State) : Except FatalKind Word :=
  match s.memRead s.pc.toNat with
  | .error k => .error k
  | .ok hi =>
    match s.memRead (s.pc.toNat + 1) with
    | .error k => .error k
    | .ok lo => .ok (wordOfBytes hi lo)

/-! ## An unrecognised word, and placing one -/

/-- The effect of a word that matches no row: past it, nothing else (R74). -/
def State.skipUnknown (s : State) : State := s.advance

/-- Does a Step from this state report UnknownInstruction: not halted, the fetch succeeds, the word matches no row (R145). -/
def State.reportsUnknown (s : State) : Bool :=
  if s.halted then false
  else
    match s.fetch with
    | .error _ => false
    | .ok op =>
      match decodeWord op with
      | .ok _ => false
      | .error _ => true

/-- A state in which the next Step fetches the word `op`: its two bytes stored at PC. Where no Step could fetch there, a
latched error is cleared and a PC with no two bytes is moved to PROG_BASE (log entry 23). -/
def State.placeWord (s : State) (op : Word) : State :=
  { s with
    err := none
    pc := if s.pc.toNat < Config.memSize - 1 then s.pc else 0x200
    mem := s.mem.writeBytes (if s.pc.toNat < Config.memSize - 1 then s.pc.toNat else Config.progBase)
      [highByte op, lowByte op] }

/-! ## Pixels (R122, R123) -/

/-- px[x][y]. -/
def Display.pixel (p : Display) (x : Fin 64) (y : Fin 32) : Bool := (p.get x).get y

/-- px[x][y] exclusive-or 1. -/
def Display.flip (p : Display) (x : Fin 64) (y : Fin 32) : Display :=
  p.set x.val ((p.get x).set y.val (!(p.pixel x y)) y.isLt) x.isLt

/-- Every pixel off (R120). -/
def Display.blank : Display := Vector.replicate 64 (Vector.replicate 32 false)

/-- The sprite bit of a column: column 0 is the most significant bit (R122, D5; log entry 9). -/
def spriteBit (b : Byte) (col : Nat) : Bool := b.getLsbD (7 - col)

/-- The x coordinate of a column, wrapped modulo 64 (R123). -/
def pixelX (vx : Byte) (col : Nat) : Fin 64 := Fin.ofNat 64 (vx.toNat + col)

/-- The y coordinate of a row, wrapped modulo 32 (R123). -/
def pixelY (vy : Byte) (row : Nat) : Fin 32 := Fin.ofNat 32 (vy.toNat + row)

/-- The pixels under the set bits of one row. -/
def rowPixels (vx vy : Byte) (row : Nat) (b : Byte) : List (Fin 64 × Fin 32) :=
  ((List.range 8).filter (spriteBit b)).map fun col => (pixelX vx col, pixelY vy row)

/-- The pixels under the set bits of a sprite whose first row is number `row`. -/
def spritePixels (vx vy : Byte) : Nat → List Byte → List (Fin 64 × Fin 32)
  | _, [] => []
  | row, b :: bs => rowPixels vx vy row b ++ spritePixels vx vy (row + 1) bs

/-- The pixels flipped one after another, and whether one of them went from on to off (R121). -/
def Display.xorAll (p : Display) : List (Fin 64 × Fin 32) → Display × Bool
  | [] => (p, false)
  | q :: qs =>
    ((Display.xorAll (p.flip q.1 q.2) qs).1, p.pixel q.1 q.2 || (Display.xorAll (p.flip q.1 q.2) qs).2)

end Sys2Proof.Machine
end

