-- ==== Sys2Proof/Machine/Operands.lean ====
section
/-! DEFINITION. The operand forms (spec/30_encoding.md R64, R66; spec/42_index_memory.md R113): immediates and addresses
zero-extended, the effective address I + i, the register block V[0..X], and the key a register selects
(spec/44_input_timers.md R136). -/

namespace Sys2Proof.Machine

/-- zext_16 of NNN (R66). -/
def zextAddr (nnn : Addr) : Word := nnn.setWidth 16

/-- zext_16 of a byte (R87, R111, R112). -/
def zextByte (b : Byte) : Word := b.setWidth 16

/-- VF, the flag register, is V[15] (R10, R11). -/
def regF : Reg := 15

/-- The effective address of the first byte of a data access, an unbounded natural (R54, R113). -/
def State.base (s : State) : Nat := s.i.toNat

/-- The key V[X] selects: its low 4 bits (R136, D11; log entry 15). -/
def keyOf (b : Byte) : Key := Fin.ofNat 16 b.toNat

/-- keys[k]. -/
def State.key (s : State) (k : Key) : Bool := s.keys.get k

/-- V[0] to V[X], X + 1 values, V[0] first (R115). -/
def State.regBlock (s : State) (x : Reg) : List Byte := s.v.toList.take (x.val + 1)

/-- Registers written from number `k` on, one byte each (R116). -/
def putRegs (v : Vector Byte 16) (k : Nat) : List Byte → Vector Byte 16
  | [] => v
  | b :: bs => putRegs (v.setIfInBounds k b) (k + 1) bs

/-- The three decimal digits of a byte, hundreds first (R114). -/
def bcdDigits (b : Byte) : List Byte :=
  [BitVec.ofNat 8 (b.toNat / 100), BitVec.ofNat 8 (b.toNat / 10 % 10), BitVec.ofNat 8 (b.toNat % 10)]

end Sys2Proof.Machine
end

