-- ==== Sys2Proof/Machine/Flags.lean ====
section
/-! DEFINITION. The flag outcomes VF receives (spec/10_state.md R11; spec/41_register_alu.md R96 to R101), each 0 or 1, and
the order of the result and the flag (spec/30_encoding.md R73). -/

namespace Sys2Proof.Machine

/-- A flag as the byte VF receives: exactly 0 or 1 (R11). -/
def flagByte (c : Bool) : Byte := if c then 1 else 0

/-- Carry out of an addition: the exact sum is above 255 (R96, R101). -/
def carryOf (x y : Byte) : Bool := decide (255 < x.toNat + y.toNat)

/-- The flag of a subtraction: the first operand is strictly greater (R97, R99, R101). -/
def greater (x y : Byte) : Bool := decide (y.toNat < x.toNat)

/-- The bit SHR shifts out, bit 0 (R98). -/
def lowBit (x : Byte) : Bool := x.getLsbD 0

/-- The bit SHL shifts out, bit 7 (R100). -/
def highBit (x : Byte) : Bool := x.getLsbD 7

/-- The result written to V[X] first and the flag to VF last, so that VF ends as the flag when X = F
(R73 b, D10; log entry 14). -/
def State.setRegFlag (s : State) (x : Reg) (r : Byte) (c : Bool) : State :=
  (s.setReg x r).setReg regF (flagByte c)

end Sys2Proof.Machine
end

