-- ==== Sys2Proof/Machine/Alu.lean ====
section
/-! DEFINITION. Register loads, arithmetic, logic, shifts, random (spec/41_register_alu.md): 6XNN, 7XNN, 8XY0 to 8XY7, 8XYE,
CXNN. Each reads its operands before it writes (R73 a) and ends with PC + 2 (R72 a). -/

namespace Sys2Proof.Machine

/-- LD_IMM (R90). -/
def execLdImm (x : Reg) (nn : Byte) (s : State) : Host.Outcome State Fault Refusal :=
  .next (s.setReg x nn).advance

/-- ADD_IMM: modulo 256, no flag (R91). -/
def execAddImm (x : Reg) (nn : Byte) (s : State) : Host.Outcome State Fault Refusal :=
  .next (s.setReg x (s.reg x + nn)).advance

/-- LD_REG (R92). -/
def execLdReg (x y : Reg) (s : State) : Host.Outcome State Fault Refusal :=
  .next (s.setReg x (s.reg y)).advance

/-- OR, no flag (R93). -/
def execOrReg (x y : Reg) (s : State) : Host.Outcome State Fault Refusal :=
  .next (s.setReg x (s.reg x ||| s.reg y)).advance

/-- AND, no flag (R94). -/
def execAndReg (x y : Reg) (s : State) : Host.Outcome State Fault Refusal :=
  .next (s.setReg x (s.reg x &&& s.reg y)).advance

/-- XOR, no flag (R95). -/
def execXorReg (x y : Reg) (s : State) : Host.Outcome State Fault Refusal :=
  .next (s.setReg x (s.reg x ^^^ s.reg y)).advance

/-- ADD_REG: VF is the carry (R96). -/
def execAddReg (x y : Reg) (s : State) : Host.Outcome State Fault Refusal :=
  .next (s.setRegFlag x (s.reg x + s.reg y) (carryOf (s.reg x) (s.reg y))).advance

/-- SUB: VF is V[X] > V[Y], strictly (R97). -/
def execSub (x y : Reg) (s : State) : Host.Outcome State Fault Refusal :=
  .next (s.setRegFlag x (s.reg x - s.reg y) (greater (s.reg x) (s.reg y))).advance

/-- SHR: V[X] in place by one, VF its old bit 0; V[Y] is not read (R98). -/
def execShr (x _y : Reg) (s : State) : Host.Outcome State Fault Refusal :=
  .next (s.setRegFlag x (s.reg x >>> 1) (lowBit (s.reg x))).advance

/-- SUBN: V[Y] - V[X], VF is V[Y] > V[X], strictly (R99). -/
def execSubn (x y : Reg) (s : State) : Host.Outcome State Fault Refusal :=
  .next (s.setRegFlag x (s.reg y - s.reg x) (greater (s.reg y) (s.reg x))).advance

/-- SHL: V[X] in place by one, VF its old bit 7; V[Y] is not read (R100). -/
def execShl (x _y : Reg) (s : State) : Host.Outcome State Fault Refusal :=
  .next (s.setRegFlag x (s.reg x <<< 1) (highBit (s.reg x))).advance

/-- RND: a fresh free byte AND NN (R105, D17; log entry 2). -/
def execRnd (x : Reg) (nn : Byte) (s : State) : Host.Outcome State Fault Refusal :=
  .next (s.nextDraw.setReg x (Config.randByte s.draws &&& nn)).advance

end Sys2Proof.Machine
end

