-- ==== Sys2Proof/Machine/IndexMem.lean ====
section
/-! DEFINITION. Index register and memory transfers (spec/42_index_memory.md): ANNN, FX1E, FX29, FX33, FX55, FX65. I is not
changed by the transfers (R113). -/

namespace Sys2Proof.Machine

/-- LD_I (R110). -/
def execLdI (nnn : Addr) (s : State) : Host.Outcome State Fault Refusal := .next (s.setI (zextAddr nnn)).advance

/-- ADD_I: modulo 65536, no flag (R111). -/
def execAddI (x : Reg) (s : State) : Host.Outcome State Fault Refusal :=
  .next (s.setI (s.i + zextByte (s.reg x))).advance

/-- LD_FONT: 5 times the whole byte (R112). -/
def execLdFont (x : Reg) (s : State) : Host.Outcome State Fault Refusal :=
  .next (s.setI (5 * zextByte (s.reg x))).advance

/-- LD_BCD: hundreds, tens, ones to I, I + 1, I + 2 (R114). -/
def execLdBcd (x : Reg) (s : State) : Host.Outcome State Fault Refusal :=
  s.settle (s.advance.storeBytes s.base (bcdDigits (s.reg x)))

/-- ST_REGS: V[0] to V[X] to I on (R115). -/
def execStRegs (x : Reg) (s : State) : Host.Outcome State Fault Refusal :=
  s.settle (s.advance.storeBytes s.base (s.regBlock x))

/-- LD_REGS: V[0] to V[X] from I on (R116). -/
def execLdRegs (x : Reg) (s : State) : Host.Outcome State Fault Refusal :=
  match s.loadBytes s.base (x.val + 1) with
  | .error k => .next (s.raiseFatal k)
  | .ok bs => .next (s.setV (putRegs s.v 0 bs)).advance

end Sys2Proof.Machine
end

