-- ==== Sys2Proof/Machine/InputTimers.lean ====
section
/-! DEFINITION. Key input and timer instructions (spec/44_input_timers.md): EX9E, EXA1, FX07, FX0A, FX15, FX18. -/

namespace Sys2Proof.Machine

/-- SKP: skip if the key V[X] selects is pressed (R130). -/
def execSkp (x : Reg) (s : State) : Host.Outcome State Fault Refusal :=
  .next (s.skipIf (s.key (keyOf (s.reg x))))

/-- SKNP: skip if the key V[X] selects is not pressed (R131). -/
def execSknp (x : Reg) (s : State) : Host.Outcome State Fault Refusal :=
  .next (s.skipIf (!(s.key (keyOf (s.reg x)))))

/-- LD_VX_DT: V[X] becomes DT (R132). -/
def execLdVxDt (x : Reg) (s : State) : Host.Outcome State Fault Refusal := .next (s.setReg x s.dt).advance

/-- LD_VX_KEY: a latched press is consumed into V[X]; with none the engine parks, PC unchanged
(R133, R137, D12, D23; log entry 16). -/
def execLdVxKey (x : Reg) (s : State) : Host.Outcome State Fault Refusal :=
  if s.latchValid then .next (s.consumeKey.setReg x (BitVec.ofNat 8 s.lastKey.val)).advance else .next s.park

/-- LD_DT_VX: DT becomes V[X] (R134). -/
def execLdDtVx (x : Reg) (s : State) : Host.Outcome State Fault Refusal := .next (s.setDt (s.reg x)).advance

/-- LD_ST_VX: ST becomes V[X]; tone_end is not touched (R135). -/
def execLdStVx (x : Reg) (s : State) : Host.Outcome State Fault Refusal := .next (s.setSt (s.reg x)).advance

end Sys2Proof.Machine
end

