-- ==== Sys2Proof/Machine/Screen.lean ====
section
/-! DEFINITION. Display instructions (spec/43_display.md): 00E0, DXYN. -/

namespace Sys2Proof.Machine

/-- CLS: every pixel off, the display dirty (R120). -/
def execCls (s : State) : Host.Outcome State Fault Refusal := .next (s.setPx Display.blank).advance

/-- DRW: the N bytes from I on are exclusive-ored into the pixels at (V[X], V[Y]) as they stood before VF is written; VF is
the collision; the display is dirty, always (R121, R73 a, D21; log entries 21, 25). -/
def execDrw (x y : Reg) (n : Nat) (s : State) : Host.Outcome State Fault Refusal :=
  match s.loadBytes s.base n with
  | .error k => .next (s.raiseFatal k)
  | .ok bs =>
    .next ((s.setPx (s.px.xorAll (spritePixels (s.reg x) (s.reg y) 0 bs)).1).setReg regF
      (flagByte (s.px.xorAll (spritePixels (s.reg x) (s.reg y) 0 bs)).2)).advance

end Sys2Proof.Machine
end

