-- ==== Sys2Proof/Machine/Step.lean ====
section
/-! DEFINITION. One Step of the engine (spec/30_encoding.md R71), and the placing of an instruction where it fetches. -/

namespace Sys2Proof.Machine

/-- Step: a halted machine does nothing; else the phase becomes Running, the word at PC is fetched, and the instruction it
encodes is executed; a failing fetch raises its error and an unrecognised word is skipped (R71, R74, R147). -/
def step (s : State) : Host.Outcome State Fault Refusal :=
  if s.halted then .next s
  else
    match (s.setPhase .running).fetch with
    | .error k => .next ((s.setPhase .running).raiseFatal k)
    | .ok op =>
      match decodeWord op with
      | .ok i => exec i (s.setPhase .running)
      | .error _ => .next (s.setPhase .running).skipUnknown

/-- The one-Step output `unknown_instruction` (R33, R145): does the Step made from this state report UnknownInstruction. -/
def stepReports (s : State) : Bool := s.reportsUnknown

/-- The state with a table row's word stored where the next Step fetches. -/
def State.withFetchWord (s : State) (nbits w : Nat) : State := s.placeWord (tableWord nbits w)

end Sys2Proof.Machine
end

