-- ==== Sys2Proof/Machine/HostMoves.lean ====
section
/-! DEFINITION. The host's moves (spec/10_state.md R31 to R34; spec/20_memory.md R52, R53; spec/60_exceptions.md R158 to R163;
spec/70_reset_and_hazards.md R170, R171), the outputs the host sees (R33), and runs of moves in any order (R183). -/

namespace Sys2Proof.Machine

/-- The Reset move, always enabled: the reset state (R170, R171). Only the model's own counter of free values goes on, so
that no draw comes back (log entry 3). -/
def State.resetMove (s : State) : State := { State.reset with draws := s.draws }

/-- The Load move where it is enabled: the bytes at 0x200 on, or RomTooLarge (R52, R53). -/
def State.load (s : State) (bytes : List Byte) : State :=
  if bytes.length ≤ Config.maxRom then
    { s with mem := s.mem.writeBytes Config.progBase bytes, phase := .loaded }
  else s.raiseFatal .romTooLarge

/-- One counter of a Tick: down by one, clamped at 0 (R18, R19, R158). -/
def countDown (b : Byte) : Byte := if b = 0 then 0 else b - 1

/-- The Tick move (R158): tone_end is set when ST goes from 1 to 0. -/
def State.tick (s : State) : State :=
  { s with dt := countDown s.dt, st := countDown s.st, toneEnd := if s.st = 1 then true else s.toneEnd }

/-- KeyDown(k): a released-to-pressed transition sets the key and the latch; a key already down changes nothing (R160). -/
def State.keyDown (s : State) (k : Key) : State :=
  if s.key k then s else { s with keys := s.keys.set k.val true k.isLt, lastKey := k, latchValid := true }

/-- KeyUp(k): the key is released, the latch untouched (R161). -/
def State.keyUp (s : State) (k : Key) : State := { s with keys := s.keys.set k.val false k.isLt }

/-- ClearDirty (R162). -/
def State.clearDirty (s : State) : State := { s with dirty := false }

/-- AckToneEnd (R163). -/
def State.ackToneEnd (s : State) : State := { s with toneEnd := false }

/-- The moves of the two agents (R31). -/
inductive Move where
  /-- The engine's one move (R71). -/
  | step
  /-- Reset (R171). -/
  | reset
  /-- Load(bytes) (R52). -/
  | load (bytes : List Byte)
  /-- Tick (R158). -/
  | tick
  /-- KeyDown(k) (R160). -/
  | keyDown (k : Key)
  /-- KeyUp(k) (R161). -/
  | keyUp (k : Key)
  /-- ClearDirty (R162). -/
  | clearDirty
  /-- AckToneEnd (R163). -/
  | ackToneEnd
  deriving DecidableEq, Repr

/-- A host move other than Reset: where a fatal error is latched there is none (R147, U9). -/
def State.unlessHalted (s t : State) : Host.Outcome State Fault Refusal :=
  if s.halted then .refused .hostMoveAfterFatal else .next t

/-- One atomic move (R32). Load exists only in phase Fresh (R52, D19; log entry 20). -/
def move (s : State) : Move → Host.Outcome State Fault Refusal
  | .step => Sys2Proof.Machine.step s
  | .reset => .next s.resetMove
  | .load bytes =>
    if s.halted then .refused .hostMoveAfterFatal
    else if s.phase = .fresh then .next (s.load bytes) else .refused .loadNotEnabled
  | .tick => s.unlessHalted s.tick
  | .keyDown k => s.unlessHalted (s.keyDown k)
  | .keyUp k => s.unlessHalted (s.keyUp k)
  | .clearDirty => s.unlessHalted s.clearDirty
  | .ackToneEnd => s.unlessHalted s.ackToneEnd

/-- A run: moves one after another, in any order and number (R32, R183), stopping where one has no meaning. -/
def runMoves (s : State) : List Move → Host.Outcome State Fault Refusal
  | [] => .next s
  | m :: ms =>
    match move s m with
    | .next t => runMoves t ms
    | .fault r => .fault r
    | .refused r => .refused r

/-- The numeric code of the error latch (R140). -/
def errCode : Option FatalKind → BitVec 3
  | none => 0
  | some .romTooLarge => 1
  | some .addressOutOfRange => 2
  | some .stackOverflow => 3
  | some .stackUnderflow => 4

/-- The numeric code of the non-fatal report UnknownInstruction (R140); it is never latched (R145). -/
def unknownInstructionCode : BitVec 3 := 5

/-- tone_active, the output ST ≠ 0 (R20, R159). -/
def State.toneActive (s : State) : Bool := decide (s.st ≠ 0)

/-- The output signals (R33), `unknown_instruction` apart, which belongs to a Step (`stepReports`). -/
structure Outputs where
  /-- All 2048 pixels. -/
  display : Display
  /-- The dirty flag. -/
  dirty : Bool
  /-- ST ≠ 0. -/
  toneActive : Bool
  /-- The pending tone-end event. -/
  toneEnd : Bool
  /-- The fatal-error latch, as its code. -/
  err : BitVec 3
  /-- The fatal-error latch is set. -/
  halted : Bool
  deriving DecidableEq, Repr

/-- What the host sees of a state (R33); registers, memory, timers and stack are opaque to it. -/
def State.outputs (s : State) : Outputs where
  display := s.px
  dirty := s.dirty
  toneActive := s.toneActive
  toneEnd := s.toneEnd
  err := errCode s.err
  halted := s.halted

/-- The output `unknown_instruction` during a move: only a Step raises it (R145). -/
def moveReports (s : State) : Move → Bool
  | .step => stepReports s
  | .reset | .load _ | .tick | .keyDown _ | .keyUp _ | .clearDirty | .ackToneEnd => false

end Sys2Proof.Machine
end

