-- ==== Sys2Proof/Safety.lean ====
section
/-! DEFINITION. What claims about a run speak of: the invariants of the machine, and which parts of the state two states
share. -/

namespace Sys2Proof.Safety

open Sys2Proof.Machine

/-- No fatal error is latched: a run is safe as long as this holds (spec/70_reset_and_hazards.md R174). -/
def running (s : State) : Prop := s.err = none

/-- While a live engine waits for a key, the instruction at PC is the FX0A that parked (spec/10_state.md R23;
spec/44_input_timers.md R137). -/
def parkedOnKeyWait (s : State) : Prop :=
  s.err = none → s.awaiting = true → ∃ op x, s.fetch = .ok op ∧ decodeWord op = .ok (.ldVxKey x)

/-- The reach of PC in a live engine: PC is at most 0x10FE, the largest target of BNNN, and every valid return address is
at most 0x1000 (spec/10_state.md R13; spec/40_control_flow.md R82, R87). -/
def pcInReach (s : State) : Prop :=
  s.err = none → s.pc.toNat ≤ 0x10FE ∧ ∀ k : Fin 16, k.val < s.sp.val → (s.stack.get k).toNat ≤ 0x1000

/-- An engine that has not made its first Step is not waiting for a key (spec/10_state.md R23, R26). -/
def waitsOnlyWhenRunning (s : State) : Prop := s.err = none → s.awaiting = true → s.phase = .running

/-- The invariant of the machine: memory in canonical form, and the three facts above. -/
def Inv (s : State) : Prop := s.mem.wf = true ∧ parkedOnKeyWait s ∧ pcInReach s ∧ waitsOnlyWhenRunning s

/-- Same registers V0 to VF. -/
def sameRegs (s t : State) : Prop := ∀ z : Reg, t.reg z = s.reg z

/-- Same registers but for those of a list. -/
def sameRegsExcept (xs : List Reg) (s t : State) : Prop := ∀ z : Reg, z ∉ xs → t.reg z = s.reg z

/-- Same memory: every address reads as before. -/
def sameMem (s t : State) : Prop := ∀ a : Nat, t.mem.read a = s.mem.read a

/-- Same memory but for `n` bytes from address `a` on. -/
def sameMemOutside (a n : Nat) (s t : State) : Prop :=
  ∀ b : Nat, ¬ (a ≤ b ∧ b < a + n) → t.mem.read b = s.mem.read b

/-- Same call stack: the depth and every entry. -/
def sameStack (s t : State) : Prop := t.sp = s.sp ∧ ∀ k : Fin 16, t.stack.get k = s.stack.get k

/-- Same display: every pixel, and the dirty flag. -/
def sameDisplay (s t : State) : Prop :=
  (∀ (x : Fin 64) (y : Fin 32), t.px.pixel x y = s.px.pixel x y) ∧ t.dirty = s.dirty

/-- Same delay and sound counters. -/
def sameTimers (s t : State) : Prop := t.dt = s.dt ∧ t.st = s.st

/-- Same wait state and latch (spec/44_input_timers.md R137). -/
def sameWait (s t : State) : Prop := t.awaiting = s.awaiting ∧ t.latchValid = s.latchValid

/-- Same state of the host's side, which no instruction writes: key states, last key, tone-end event, and the error latch
and launch phase (spec/10_state.md R34). -/
def sameHostSide (s t : State) : Prop :=
  (∀ k : Key, t.key k = s.key k) ∧ t.lastKey = s.lastKey ∧ t.toneEnd = s.toneEnd ∧ t.err = s.err ∧ t.phase = s.phase

/-- Everything but the registers, I and PC is unchanged: the frame of the instructions that compute in registers. -/
def sameBeyondRegs (s t : State) : Prop :=
  sameMem s t ∧ sameStack s t ∧ sameDisplay s t ∧ sameTimers s t ∧ sameWait s t ∧ sameHostSide s t

/-- Only the registers of a list and PC may differ: the frame of an instruction that computes in registers. -/
def onlyRegs (xs : List Reg) (s t : State) : Prop := sameRegsExcept xs s t ∧ t.i = s.i ∧ sameBeyondRegs s t

/-- Only PC may differ: the frame of jumps and skips. -/
def onlyPc (s t : State) : Prop := sameRegs s t ∧ t.i = s.i ∧ sameBeyondRegs s t

/-- The registers an instruction may write: its destination, VF where it writes the flag, V0 to VX for FX65
(spec/10_state.md R10, R11). -/
def destRegs : Instr → List Reg
  | .ldImm x _ | .addImm x _ | .ldReg x _ | .orReg x _ | .andReg x _ | .xorReg x _ | .rnd x _ => [x]
  | .ldVxDt x | .ldVxKey x => [x]
  | .addReg x _ | .sub x _ | .shr x _ | .subn x _ | .shl x _ => [x, regF]
  | .drw _ _ _ => [regF]
  | .ldRegs x => (List.finRange 16).filter (· ≤ x)
  | .cls | .ret | .jp _ | .call _ | .seImm _ _ | .sneImm _ _ | .seReg _ _ | .sneReg _ _ | .ldI _ | .jpV0 _ => []
  | .skp _ | .sknp _ | .ldDtVx _ | .ldStVx _ | .addI _ | .ldFont _ | .ldBcd _ | .stRegs _ => []

/-- Does an instruction write VF as a flag (spec/10_state.md R11). -/
def writesFlag : Instr → Bool
  | .addReg _ _ | .sub _ _ | .shr _ _ | .subn _ _ | .shl _ _ | .drw _ _ _ => true
  | .cls | .ret | .jp _ | .call _ | .seImm _ _ | .sneImm _ _ | .seReg _ _ | .ldImm _ _ | .addImm _ _ => false
  | .ldReg _ _ | .orReg _ _ | .andReg _ _ | .xorReg _ _ | .sneReg _ _ | .ldI _ | .jpV0 _ | .rnd _ _ => false
  | .skp _ | .sknp _ | .ldVxDt _ | .ldVxKey _ | .ldDtVx _ | .ldStVx _ | .addI _ | .ldFont _ => false
  | .ldBcd _ | .stRegs _ | .ldRegs _ => false

/-- The fatal error an instruction raises in a state, if any (spec/60_exceptions.md R140, R141). -/
def raises (s : State) : Instr → Option FatalKind
  | .ret => if s.sp.val = 0 then some .stackUnderflow else none
  | .call _ => if s.sp.val = 16 then some .stackOverflow else none
  | .drw _ _ n => if 1 ≤ n ∧ 4095 < s.i.toNat + n - 1 then some .addressOutOfRange else none
  | .ldBcd _ => if 4095 < s.i.toNat + 2 then some .addressOutOfRange else none
  | .stRegs x | .ldRegs x => if 4095 < s.i.toNat + x.val then some .addressOutOfRange else none
  | .cls | .jp _ | .seImm _ _ | .sneImm _ _ | .seReg _ _ | .ldImm _ _ | .addImm _ _ | .ldReg _ _ => none
  | .orReg _ _ | .andReg _ _ | .xorReg _ _ | .addReg _ _ | .sub _ _ | .shr _ _ | .subn _ _ | .shl _ _ => none
  | .sneReg _ _ | .ldI _ | .jpV0 _ | .rnd _ _ | .skp _ | .sknp _ | .ldVxDt _ | .ldVxKey _ => none
  | .ldDtVx _ | .ldStVx _ | .addI _ | .ldFont _ => none

/-- The PC after an instruction that raises nothing, as spec/30_encoding.md R72 sorts the instructions: (a) PC + 2 by default;
(a, b) PC + 2 or PC + 4 for a skip; (c) the target for a control transfer; (d) PC unchanged for an FX0A that finds no latched
press. -/
def pcAfter (s : State) : Instr → Word
  | .jp nnn | .call nnn => zextAddr nnn
  | .jpV0 nnn => zextAddr nnn + zextByte (s.reg 0)
  | .ret => s.top
  | .seImm x nn => if s.reg x = nn then s.pc + 4 else s.pc + 2
  | .sneImm x nn => if s.reg x = nn then s.pc + 2 else s.pc + 4
  | .seReg x y => if s.reg x = s.reg y then s.pc + 4 else s.pc + 2
  | .sneReg x y => if s.reg x = s.reg y then s.pc + 2 else s.pc + 4
  | .skp x => if s.key (keyOf (s.reg x)) = true then s.pc + 4 else s.pc + 2
  | .sknp x => if s.key (keyOf (s.reg x)) = true then s.pc + 2 else s.pc + 4
  | .ldVxKey _ => if s.latchValid = true then s.pc + 2 else s.pc
  | .cls | .ldImm _ _ | .addImm _ _ | .ldReg _ _ | .orReg _ _ | .andReg _ _ | .xorReg _ _ | .addReg _ _ => s.pc + 2
  | .sub _ _ | .shr _ _ | .subn _ _ | .shl _ _ | .ldI _ | .rnd _ _ | .drw _ _ _ | .ldVxDt _ | .ldDtVx _ => s.pc + 2
  | .ldStVx _ | .addI _ | .ldFont _ | .ldBcd _ | .stRegs _ | .ldRegs _ => s.pc + 2

/-- Does the sprite of `n` rows at I, drawn at (V[X], V[Y]), have a set bit over the pixel (px, py)
(spec/43_display.md R121 to R123). -/
def spriteCovers (s : State) (x y : Reg) (n : Nat) (px : Fin 64) (py : Fin 32) : Prop :=
  ∃ row < n, ∃ col < 8, (s.mem.read (s.i.toNat + row)).getLsbD (7 - col) = true ∧
    px.val = ((s.reg x).toNat + col) % 64 ∧ py.val = ((s.reg y).toNat + row) % 32

end Sys2Proof.Safety
end

