-- ==== Sys2Proof/Certificates/Slice0/Obligations.lean ====
section
/-! DEFINITION. The statements for the provers, from the numbered rules of spec/. A docstring names the rule, or says that a
clause is the spec's own decision (D<n>) or the model's choice, with its log entry. -/

open Sys2Proof Sys2Proof.Machine Sys2Proof.Safety

/-! ## Encoding (spec/30_encoding.md) -/

/-- Words written out digit by digit from the patterns of R67 decode to their instructions, and two words of R69 to none. That
0x5121 is unrecognised is the spec's decision D9 (log entry 13); that 0x8124 is ADD_REG rests on the order of group 8, which
the spec infers (R68, log entry 24). -/
def Obligations.KnownWordsDecode : Prop :=
  decodeWord 0x00E0 = .ok .cls ∧ decodeWord 0x00EE = .ok .ret ∧ decodeWord 0x1234 = .ok (.jp 0x234) ∧
  decodeWord 0x332A = .ok (.seImm 3 0x2A) ∧ decodeWord 0x8124 = .ok (.addReg 1 2) ∧
  decodeWord 0xA2F0 = .ok (.ldI 0x2F0) ∧ decodeWord 0xD12F = .ok (.drw 1 2 15) ∧ decodeWord 0xE29E = .ok (.skp 2) ∧
  decodeWord 0xF333 = .ok (.ldBcd 3) ∧ decodeWord 0x5121 = .error (.unknownInstruction 0x5121) ∧
  decodeWord 0x0000 = .error (.unknownInstruction 0)

/-- Decoding the word of a well-formed instruction gives the instruction back, every operand at every value (R64 to R67). -/
def Obligations.DecodeEncodeRoundTrip : Prop :=
  ∀ i : Instr, i.wellFormed = true → decodeWord (encode i) = .ok i

/-- A word that decodes is the word of what it decodes to, and that is well formed: no bit of a word is dropped, the ignored
Y field of SHR and SHL included (R64 to R67). -/
def Obligations.EncodeDecodeRoundTrip : Prop :=
  ∀ (op : Word) (i : Instr), decodeWord op = .ok i → i.wellFormed = true ∧ encode i = op

/-- The two bytes of a well-formed instruction, high byte first, decode to it and leave the bytes after them (R63). -/
def Obligations.BytesRoundTrip : Prop :=
  ∀ (i : Instr) (rest : List Byte), i.wellFormed = true → decodeBytes (encodeBytes i ++ rest) = .ok (i, rest)

/-- The decoder is the opcode map of R67: a word decodes exactly when some row has `op & mask = match`; it decodes to an
instruction of that row; no word is of two rows. That exactly the words of these masks decode, every fixed digit compared, is
the spec's decision D9 (R70, log entry 13), and the match values of group 8 are the spec's inference (R68, log entry 24). -/
def Obligations.DecoderIsTheOpcodeMap : Prop :=
  (∀ op : Word, (∃ i, decodeWord op = .ok i) ↔ ∃ r ∈ opcodeRows, inRow op r = true) ∧
  (∀ (op : Word) (i : Instr), decodeWord op = .ok i → rowOf i ∈ opcodeRows ∧ inRow op (rowOf i) = true) ∧
  (∀ (op : Word) (r r' : Word × Word), r ∈ opcodeRows → r' ∈ opcodeRows → inRow op r = true → inRow op r' = true → r = r')

/-- The unrecognised words, group by group, exactly as the table of R69 lists them (which words of groups 5, 9, 0 and E are
unrecognised is the spec's decision D9, log entry 13). -/
def Obligations.UnrecognisedWords : Prop :=
  ∀ op : Word, decodeWord op = .error (.unknownInstruction op) ↔
    (op.toNat / 4096 = 0 ∧ op.toNat ≠ 0x00E0 ∧ op.toNat ≠ 0x00EE) ∨
    (op.toNat / 4096 = 5 ∧ op.toNat % 16 ≠ 0) ∨
    (op.toNat / 4096 = 8 ∧ op.toNat % 16 ∈ [8, 9, 0xA, 0xB, 0xC, 0xD, 0xF]) ∨
    (op.toNat / 4096 = 9 ∧ op.toNat % 16 ≠ 0) ∨
    (op.toNat / 4096 = 0xE ∧ op.toNat % 256 ∉ [0x9E, 0xA1]) ∨
    (op.toNat / 4096 = 0xF ∧ op.toNat % 256 ∉ [0x07, 0x0A, 0x15, 0x18, 0x1E, 0x29, 0x33, 0x55, 0x65])

/-! ## The Step (spec/30_encoding.md R71, spec/20_memory.md R46) -/

/-- A Step of a live machine whose two bytes at PC, the first the more significant, decode to a well-formed instruction is
that instruction's execution, the launch phase set to Running before it; it reports nothing. -/
def Obligations.StepRunsTheDecodedInstruction : Prop :=
  ∀ (s : State) (op : Word) (i : Instr), s.err = none → s.pc.toNat ≤ 4094 →
    op.toNat = (s.mem.read s.pc.toNat).toNat * 256 + (s.mem.read (s.pc.toNat + 1)).toNat →
    decodeWord op = .ok i → step s = exec i (s.setPhase .running) ∧ stepReports s = false

/-- A Step that meets an unrecognised word reports UnknownInstruction, adds 2 to PC and changes nothing else but the ghost
launch phase (R74). -/
def Obligations.StepSkipsAnUnrecognisedWord : Prop :=
  ∀ (s : State) (op : Word) (r : Reject), s.err = none → s.pc.toNat ≤ 4094 →
    op.toNat = (s.mem.read s.pc.toNat).toNat * 256 + (s.mem.read (s.pc.toNat + 1)).toNat →
    decodeWord op = .error r →
    stepReports s = true ∧ ∃ t, step s = .next t ∧ t.pc = s.pc + 2 ∧ onlyPc (s.setPhase .running) t

/-- A fetch of a byte above 4095 raises AddressOutOfRange: PC above 4094 (R46), and nothing is reported as unknown. -/
def Obligations.FetchAboveMemoryRaises : Prop :=
  ∀ s : State, s.err = none → 4094 < s.pc.toNat →
    stepReports s = false ∧ ∃ t, step s = .next t ∧ t.err = some .addressOutOfRange

/-- Once a fatal error is latched no number of Steps changes anything, the latched kind included, and no Step reports
(R147). -/
def Obligations.HaltedStepsDoNothing : Prop :=
  ∀ (s : State) (k : FatalKind) (n : Nat), s.err = some k → Sys2Proof.core.run n s = .next s ∧ stepReports s = false

/-- Every instruction and every Step ends in a next state: a Step blocks on nothing (R71). -/
def Obligations.EveryStepEnds : Prop :=
  (∀ (i : Instr) (s : State), ∃ t, exec i s = .next t) ∧ ∀ s : State, ∃ t, step s = .next t

/-- A word placed for the next Step is the one it runs: the placing aid of the model (log entry 23). -/
def Obligations.PlacedInstructionIsRun : Prop :=
  ∀ (s : State) (i : Instr), s.mem.wf = true → i.wellFormed = true →
    step (s.withFetchWord 16 (encode i).toNat) = exec i ((s.withFetchWord 16 (encode i).toNat).setPhase .running)

/-! ## Control flow (spec/40_control_flow.md) -/

/-- JP sets PC to NNN exactly, JP_V0 to NNN + V[0], not reduced; nothing else changes (R81, R87). -/
def Obligations.JumpsSetPcExactly : Prop :=
  ∀ (s : State) (nnn : Addr),
    (∃ t, exec (.jp nnn) s = .next t ∧ t.pc.toNat = nnn.toNat ∧ onlyPc s t) ∧
    (∃ t, exec (.jpV0 nnn) s = .next t ∧ t.pc.toNat = nnn.toNat + (s.reg 0).toNat ∧ onlyPc s t)

/-- SE_IMM and SNE_IMM: exactly one of skip (PC + 4) and no skip (PC + 2), by V[X] = NN; nothing else changes (R83, R84). -/
def Obligations.ImmediateSkips : Prop :=
  ∀ (s : State) (x : Reg) (nn : Byte),
    (∃ t, exec (.seImm x nn) s = .next t ∧ t.pc = (if (s.reg x).toNat = nn.toNat then s.pc + 4 else s.pc + 2) ∧ onlyPc s t) ∧
    (∃ t, exec (.sneImm x nn) s = .next t ∧ t.pc = (if (s.reg x).toNat = nn.toNat then s.pc + 2 else s.pc + 4) ∧ onlyPc s t)

/-- SE_REG and SNE_REG: skip by V[X] = V[Y]; nothing else changes (R85, R86). -/
def Obligations.RegisterSkips : Prop :=
  ∀ (s : State) (x y : Reg),
    (∃ t, exec (.seReg x y) s = .next t ∧
      t.pc = (if (s.reg x).toNat = (s.reg y).toNat then s.pc + 4 else s.pc + 2) ∧ onlyPc s t) ∧
    (∃ t, exec (.sneReg x y) s = .next t ∧
      t.pc = (if (s.reg x).toNat = (s.reg y).toNat then s.pc + 2 else s.pc + 4) ∧ onlyPc s t)

/-- RET: with an entry on the stack, PC becomes the top entry exactly and SP goes down by one, nothing else; with none,
StackUnderflow is raised (R80). That PC becomes the popped entry exactly, with no increment after it, is half of the spec's
decision D6 (log entry 10). -/
def Obligations.ReturnPopsIntoPc : Prop :=
  ∀ s : State,
    (s.sp.val = 0 → ∃ t, exec .ret s = .next t ∧ t.err = some .stackUnderflow) ∧
    (∀ k : Fin 16, s.sp.val = k.val + 1 →
      ∃ t, exec .ret s = .next t ∧ t.sp.val = k.val ∧ t.pc = s.stack.get k ∧ (∀ j, t.stack.get j = s.stack.get j) ∧
        sameRegs s t ∧ t.i = s.i ∧ sameMem s t ∧ sameDisplay s t ∧ sameTimers s t ∧ sameWait s t ∧ sameHostSide s t)

/-- CALL: with room on the stack, PC + 2 is pushed and PC becomes NNN, nothing else; with 16 entries, StackOverflow is
raised. That PC + 2 is the pushed value is the spec's decision D6 (log entry 10). -/
def Obligations.CallPushesTheReturnAddress : Prop :=
  ∀ (s : State) (nnn : Addr),
    (s.sp.val = 16 → ∃ t, exec (.call nnn) s = .next t ∧ t.err = some .stackOverflow) ∧
    (∀ k : Fin 16, s.sp.val = k.val →
      ∃ t, exec (.call nnn) s = .next t ∧ t.sp.val = k.val + 1 ∧ t.stack.get k = s.pc + 2 ∧ t.pc.toNat = nnn.toNat ∧
        (∀ j, j ≠ k → t.stack.get j = s.stack.get j) ∧
        sameRegs s t ∧ t.i = s.i ∧ sameMem s t ∧ sameDisplay s t ∧ sameTimers s t ∧ sameWait s t ∧ sameHostSide s t)

/-- CALL then RET comes back to the instruction after the call with the same depth and the same valid entries, at every depth
from 0 to 15 (D0's round trip, spec/90_conflicts.md C1). -/
def Obligations.CallThenReturnComesBack : Prop :=
  ∀ (s : State) (nnn : Addr), s.sp.val < 16 →
    ∃ t u, exec (.call nnn) s = .next t ∧ exec .ret t = .next u ∧ u.pc = s.pc + 2 ∧ u.sp = s.sp ∧
      (∀ k : Fin 16, k.val < s.sp.val → u.stack.get k = s.stack.get k) ∧ sameRegs s u ∧ sameMem s u

/-- A jump to its own address, with the engine already running, leaves the whole state as it is (R174, R81). -/
def Obligations.SelfJumpChangesNothing : Prop :=
  ∀ (s : State) (op : Word) (nnn : Addr), s.err = none → s.phase = .running → s.fetch = .ok op →
    decodeWord op = .ok (.jp nnn) → s.pc.toNat = nnn.toNat → step s = .next s

/-! ## Registers and arithmetic (spec/41_register_alu.md) -/

/-- LD_IMM and LD_REG load V[X], PC goes on by 2, nothing else changes (R90, R92). -/
def Obligations.RegisterLoads : Prop :=
  ∀ (s : State) (x y : Reg) (nn : Byte),
    (∃ t, exec (.ldImm x nn) s = .next t ∧ t.reg x = nn ∧ t.pc = s.pc + 2 ∧ onlyRegs [x] s t) ∧
    (∃ t, exec (.ldReg x y) s = .next t ∧ t.reg x = s.reg y ∧ t.pc = s.pc + 2 ∧ onlyRegs [x] s t)

/-- ADD_IMM adds modulo 256 and writes no flag: only V[X] changes (R91). -/
def Obligations.AddImmediate : Prop :=
  ∀ (s : State) (x : Reg) (nn : Byte),
    ∃ t, exec (.addImm x nn) s = .next t ∧ (t.reg x).toNat = ((s.reg x).toNat + nn.toNat) % 256 ∧
      t.pc = s.pc + 2 ∧ onlyRegs [x] s t

/-- OR, AND and XOR act bit by bit and write no flag: only V[X] changes (R93, R94, R95). -/
def Obligations.LogicOperations : Prop :=
  ∀ (s : State) (x y : Reg),
    (∃ t, exec (.orReg x y) s = .next t ∧ (∀ k < 8, (t.reg x).getLsbD k = ((s.reg x).getLsbD k || (s.reg y).getLsbD k)) ∧
      t.pc = s.pc + 2 ∧ onlyRegs [x] s t) ∧
    (∃ t, exec (.andReg x y) s = .next t ∧ (∀ k < 8, (t.reg x).getLsbD k = ((s.reg x).getLsbD k && (s.reg y).getLsbD k)) ∧
      t.pc = s.pc + 2 ∧ onlyRegs [x] s t) ∧
    (∃ t, exec (.xorReg x y) s = .next t ∧ (∀ k < 8, (t.reg x).getLsbD k = ((s.reg x).getLsbD k ^^ (s.reg y).getLsbD k)) ∧
      t.pc = s.pc + 2 ∧ onlyRegs [x] s t)

/-- ADD_REG: the sum modulo 256 and the carry. That VF ends as the carry when X = F is the spec's decision D10
(R73 b, log entry 14). -/
def Obligations.AddRegisters : Prop :=
  ∀ (s : State) (x y : Reg),
    ∃ t, exec (.addReg x y) s = .next t ∧
      (x ≠ 15 → (t.reg x).toNat = ((s.reg x).toNat + (s.reg y).toNat) % 256) ∧
      (t.reg 15).toNat = (if 255 < (s.reg x).toNat + (s.reg y).toNat then 1 else 0) ∧
      t.pc = s.pc + 2 ∧ onlyRegs [x, 15] s t

/-- SUB and SUBN: the difference modulo 256 and the strict comparison; equal operands give flag 0 (R97, R99, R101). That VF
ends as the flag when X = F is the spec's decision D10 (R73 b, log entry 14). -/
def Obligations.SubtractRegisters : Prop :=
  ∀ (s : State) (x y : Reg),
    (∃ t, exec (.sub x y) s = .next t ∧
      (x ≠ 15 → ((t.reg x).toNat : Int) = ((s.reg x).toNat - (s.reg y).toNat) % 256) ∧
      (t.reg 15).toNat = (if (s.reg y).toNat < (s.reg x).toNat then 1 else 0) ∧
      t.pc = s.pc + 2 ∧ onlyRegs [x, 15] s t) ∧
    (∃ t, exec (.subn x y) s = .next t ∧
      (x ≠ 15 → ((t.reg x).toNat : Int) = ((s.reg y).toNat - (s.reg x).toNat) % 256) ∧
      (t.reg 15).toNat = (if (s.reg x).toNat < (s.reg y).toNat then 1 else 0) ∧
      t.pc = s.pc + 2 ∧ onlyRegs [x, 15] s t)

/-- SHR and SHL shift V[X] by one place and give VF the bit shifted out; V[Y] plays no part (R98, R100). That VF ends as the
flag when X = F is the spec's decision D10 (R73 b, log entry 14). -/
def Obligations.ShiftsByOne : Prop :=
  ∀ (s : State) (x y : Reg),
    (∃ t, exec (.shr x y) s = .next t ∧
      (x ≠ 15 → (t.reg x).toNat = (s.reg x).toNat / 2) ∧ (t.reg 15).toNat = (s.reg x).toNat % 2 ∧
      t.pc = s.pc + 2 ∧ onlyRegs [x, 15] s t) ∧
    (∃ t, exec (.shl x y) s = .next t ∧
      (x ≠ 15 → (t.reg x).toNat = 2 * (s.reg x).toNat % 256) ∧ (t.reg 15).toNat = (s.reg x).toNat / 128 ∧
      t.pc = s.pc + 2 ∧ onlyRegs [x, 15] s t)

/-- RND: a free byte, masked by NN, and a fresh one at every execution; only V[X] changes. The draw is the model's free value
(R105, D17; log entries 2, 3). -/
def Obligations.RandomIsAMaskedFreeByte : Prop :=
  ∀ (s : State) (x : Reg) (nn : Byte),
    ∃ t, exec (.rnd x nn) s = .next t ∧
      (∀ k < 8, (t.reg x).getLsbD k = ((Config.randByte s.draws).getLsbD k && nn.getLsbD k)) ∧
      t.draws = s.draws + 1 ∧ t.pc = s.pc + 2 ∧ onlyRegs [x] s t

/-! ## Index register and memory (spec/42_index_memory.md) -/

/-- LD_I, ADD_I and LD_FONT: NNN, the sum modulo 65536, five times the whole byte; only I changes, VF not (R110 to R112). -/
def Obligations.IndexRegisterWrites : Prop :=
  ∀ (s : State) (nnn : Addr) (x : Reg),
    (∃ t, exec (.ldI nnn) s = .next t ∧ t.i.toNat = nnn.toNat ∧ t.pc = s.pc + 2 ∧ sameRegs s t ∧ sameBeyondRegs s t) ∧
    (∃ t, exec (.addI x) s = .next t ∧ t.i.toNat = (s.i.toNat + (s.reg x).toNat) % 65536 ∧
      t.pc = s.pc + 2 ∧ sameRegs s t ∧ sameBeyondRegs s t) ∧
    (∃ t, exec (.ldFont x) s = .next t ∧ t.i.toNat = 5 * (s.reg x).toNat ∧
      t.pc = s.pc + 2 ∧ sameRegs s t ∧ sameBeyondRegs s t)

/-- LD_BCD with I at most 4093 stores the three digits at I, I + 1, I + 2 and changes nothing else; above that it raises
AddressOutOfRange. That a store below 0x50 is performed is the spec's decision D8 (R56, log entry 12). -/
def Obligations.BcdStoresThreeDigits : Prop :=
  ∀ (s : State) (x : Reg), s.mem.wf = true →
    (s.i.toNat ≤ 4093 → ∃ t, exec (.ldBcd x) s = .next t ∧
      (t.mem.read s.i.toNat).toNat = (s.reg x).toNat / 100 ∧
      (t.mem.read (s.i.toNat + 1)).toNat = (s.reg x).toNat / 10 % 10 ∧
      (t.mem.read (s.i.toNat + 2)).toNat = (s.reg x).toNat % 10 ∧
      sameMemOutside s.i.toNat 3 s t ∧ t.pc = s.pc + 2 ∧ sameRegs s t ∧ t.i = s.i ∧
      sameStack s t ∧ sameDisplay s t ∧ sameTimers s t ∧ sameWait s t ∧ sameHostSide s t) ∧
    (4093 < s.i.toNat → ∃ t, exec (.ldBcd x) s = .next t ∧ t.err = some .addressOutOfRange)

/-- ST_REGS with I + X at most 4095 stores V[0] to V[X] from I on and changes nothing else; above that it raises
AddressOutOfRange. That a store below 0x50 is performed is the spec's decision D8 (R56, log entry 12). -/
def Obligations.StoreRegisters : Prop :=
  ∀ (s : State) (x : Reg), s.mem.wf = true →
    (s.i.toNat + x.val ≤ 4095 → ∃ t, exec (.stRegs x) s = .next t ∧
      (∀ z : Reg, z ≤ x → t.mem.read (s.i.toNat + z.val) = s.reg z) ∧
      sameMemOutside s.i.toNat (x.val + 1) s t ∧ t.pc = s.pc + 2 ∧ sameRegs s t ∧ t.i = s.i ∧
      sameStack s t ∧ sameDisplay s t ∧ sameTimers s t ∧ sameWait s t ∧ sameHostSide s t) ∧
    (4095 < s.i.toNat + x.val → ∃ t, exec (.stRegs x) s = .next t ∧ t.err = some .addressOutOfRange)

/-- LD_REGS with I + X at most 4095 loads V[0] to V[X] from I on and changes nothing else, I included; above that it raises
AddressOutOfRange (R116). -/
def Obligations.LoadRegisters : Prop :=
  ∀ (s : State) (x : Reg),
    (s.i.toNat + x.val ≤ 4095 → ∃ t, exec (.ldRegs x) s = .next t ∧
      (∀ z : Reg, t.reg z = if z ≤ x then s.mem.read (s.i.toNat + z.val) else s.reg z) ∧
      t.pc = s.pc + 2 ∧ t.i = s.i ∧ sameBeyondRegs s t) ∧
    (4095 < s.i.toNat + x.val → ∃ t, exec (.ldRegs x) s = .next t ∧ t.err = some .addressOutOfRange)

/-- What is stored from I on comes back: after ST_REGS, in any state with the memory and the I it left and with any registers
(and anything else) in between, LD_REGS of the same X loads V[0] to V[X] as they were stored, and leaves the registers above
V[X] and I as they are (R113, R115, R116). That a store below 0x50 is performed is the spec's decision D8 (R56, log entry 12). -/
def Obligations.StoreThenLoadGivesTheRegistersBack : Prop :=
  ∀ (s t w : State) (x : Reg), s.mem.wf = true → s.i.toNat + x.val ≤ 4095 → exec (.stRegs x) s = .next t →
    sameMem t w → w.i = t.i →
    ∃ u, exec (.ldRegs x) w = .next u ∧ (∀ z : Reg, u.reg z = if z ≤ x then s.reg z else w.reg z) ∧ u.i = s.i ∧
      u.pc = w.pc + 2

/-- Self-modifying code: a store of V[0], V[1] over the next instruction is what the next fetch sees, V[0] the high byte
(R47, R60). -/
def Obligations.StoredWordIsFetchedNext : Prop :=
  ∀ (s : State) (x : Reg), s.mem.wf = true → 1 ≤ x.val → s.i = s.pc + 2 → s.pc.toNat + 2 + x.val ≤ 4095 →
    ∃ t op, exec (.stRegs x) s = .next t ∧ t.fetch = .ok op ∧ op.toNat = (s.reg 0).toNat * 256 + (s.reg 1).toNat

/-! ## Display (spec/43_display.md) -/

/-- CLS: every pixel off, dirty set, nothing else but PC changes, VF not (R120). -/
def Obligations.ClearScreen : Prop :=
  ∀ s : State, ∃ t, exec .cls s = .next t ∧ (∀ px py, t.px.pixel px py = false) ∧ t.dirty = true ∧ t.pc = s.pc + 2 ∧
    sameRegs s t ∧ t.i = s.i ∧ sameMem s t ∧ sameStack s t ∧ sameTimers s t ∧ sameWait s t ∧ sameHostSide s t

/-- DRW: each pixel is exclusive-ored with the sprite, wrapped on both axes; VF is 1 exactly when a covered pixel was on;
dirty is set; nothing else but PC changes; a row above memory raises AddressOutOfRange. The bit order is the spec's decision
D5, dirty without a drawn pixel D21, coordinates from the old VF D10 (log entries 9, 21, 14). -/
def Obligations.DrawSprite : Prop :=
  ∀ (s : State) (x y : Reg) (n : Nat), n < 16 →
    (n = 0 ∨ s.i.toNat + n ≤ 4096 → ∃ t, exec (.drw x y n) s = .next t ∧
      (∀ px py, spriteCovers s x y n px py → t.px.pixel px py = !(s.px.pixel px py)) ∧
      (∀ px py, ¬ spriteCovers s x y n px py → t.px.pixel px py = s.px.pixel px py) ∧
      (t.reg 15 = 1 ∨ t.reg 15 = 0) ∧
      (t.reg 15 = 1 ↔ ∃ px py, spriteCovers s x y n px py ∧ s.px.pixel px py = true) ∧
      t.dirty = true ∧ t.pc = s.pc + 2 ∧ t.i = s.i ∧ sameRegsExcept [15] s t ∧
      sameMem s t ∧ sameStack s t ∧ sameTimers s t ∧ sameWait s t ∧ sameHostSide s t) ∧
    (n ≠ 0 ∧ 4096 < s.i.toNat + n → ∃ t, exec (.drw x y n) s = .next t ∧ t.err = some .addressOutOfRange)

/-- Drawing the same sprite twice at coordinates that the flag does not hold restores every pixel, and the second draw gives
VF = 1 exactly when a covered pixel was off before the first (R121, D0's property; the bit order is D5, log entry 9). -/
def Obligations.DrawTwiceRestores : Prop :=
  ∀ (s t u : State) (x y : Reg) (n : Nat), n < 16 → n = 0 ∨ s.i.toNat + n ≤ 4096 → x ≠ 15 → y ≠ 15 →
    exec (.drw x y n) s = .next t → exec (.drw x y n) t = .next u →
      (∀ px py, u.px.pixel px py = s.px.pixel px py) ∧
      (u.reg 15 = 1 ↔ ∃ px py, spriteCovers s x y n px py ∧ s.px.pixel px py = false)

/-! ## Input and timers (spec/44_input_timers.md, spec/60_exceptions.md) -/

/-- SKP and SKNP test the level of the key that the low 4 bits of V[X] select; nothing else changes. The low 4 bits are the
spec's decision D11 (R136, log entry 15). -/
def Obligations.KeySkips : Prop :=
  ∀ (s : State) (x : Reg) (k : Key), k.val = (s.reg x).toNat % 16 →
    (∃ t, exec (.skp x) s = .next t ∧ t.pc = (if s.key k = true then s.pc + 4 else s.pc + 2) ∧ onlyPc s t) ∧
    (∃ t, exec (.sknp x) s = .next t ∧ t.pc = (if s.key k = true then s.pc + 2 else s.pc + 4) ∧ onlyPc s t)

/-- LD_VX_DT reads DT into V[X], LD_DT_VX writes DT from V[X]; nothing else changes (R132, R134). -/
def Obligations.DelayCounterAccess : Prop :=
  ∀ (s : State) (x : Reg),
    (∃ t, exec (.ldVxDt x) s = .next t ∧ t.reg x = s.dt ∧ t.pc = s.pc + 2 ∧ onlyRegs [x] s t) ∧
    (∃ t, exec (.ldDtVx x) s = .next t ∧ t.dt = s.reg x ∧ t.st = s.st ∧ t.pc = s.pc + 2 ∧ sameRegs s t ∧ t.i = s.i ∧
      sameMem s t ∧ sameStack s t ∧ sameDisplay s t ∧ sameWait s t ∧ sameHostSide s t)

/-- LD_ST_VX writes ST from V[X]; tone_active follows at once and nothing else changes, tone_end included, which is the
spec's decision D16 (R135, log entry 18). -/
def Obligations.SoundCounterWrite : Prop :=
  ∀ (s : State) (x : Reg),
    ∃ t, exec (.ldStVx x) s = .next t ∧ t.st = s.reg x ∧ t.dt = s.dt ∧ (t.toneActive = true ↔ (s.reg x).toNat ≠ 0) ∧
      t.pc = s.pc + 2 ∧ sameRegs s t ∧ t.i = s.i ∧
      sameMem s t ∧ sameStack s t ∧ sameDisplay s t ∧ sameWait s t ∧ sameHostSide s t

/-- LD_VX_KEY: a latched press goes to V[X], is consumed, the wait ends and PC goes on; with none the engine waits, PC and all
else unchanged. What the latch is, is the spec's decision D12, D23 (R133, R137, log entry 16). -/
def Obligations.KeyWait : Prop :=
  ∀ (s : State) (x : Reg),
    (s.latchValid = true → ∃ t, exec (.ldVxKey x) s = .next t ∧ (t.reg x).toNat = s.lastKey.val ∧ t.latchValid = false ∧
      t.awaiting = false ∧ t.pc = s.pc + 2 ∧ sameRegsExcept [x] s t ∧ t.i = s.i ∧
      sameMem s t ∧ sameStack s t ∧ sameDisplay s t ∧ sameTimers s t ∧ sameHostSide s t) ∧
    (s.latchValid = false → ∃ t, exec (.ldVxKey x) s = .next t ∧ t.awaiting = true ∧ t.latchValid = false ∧ t.pc = s.pc ∧
      sameRegs s t ∧ t.i = s.i ∧
      sameMem s t ∧ sameStack s t ∧ sameDisplay s t ∧ sameTimers s t ∧ sameHostSide s t)

/-- A parked engine stays where it is Step after Step, and the Step after a key goes down delivers that key and goes on
(D0's property of FX0A; the latch is the spec's decision D12, log entry 16). -/
def Obligations.KeyPressEndsTheWait : Prop :=
  ∀ (s : State) (op : Word) (x : Reg) (k : Key) (n : Nat), s.err = none → s.fetch = .ok op →
    decodeWord op = .ok (.ldVxKey x) → s.latchValid = false → s.key k = false →
    ∃ t u, Sys2Proof.core.run (n + 1) s = .next t ∧ t.pc = s.pc ∧ t.awaiting = true ∧ sameRegs s t ∧
      step (t.keyDown k) = .next u ∧ u.pc = s.pc + 2 ∧ (u.reg x).toNat = k.val ∧ u.awaiting = false ∧ u.latchValid = false

/-- Tick: each counter goes down by one and stays at 0; tone_end is set exactly by ST going from 1 to 0; nothing else changes
(R158; the event's rule is the spec's decision D16, log entry 18). -/
def Obligations.TickCountsDown : Prop :=
  ∀ s : State, s.err = none →
    ∃ t, move s .tick = .next t ∧ t.dt.toNat = s.dt.toNat - 1 ∧ t.st.toNat = s.st.toNat - 1 ∧
      (t.toneEnd = true ↔ s.toneEnd = true ∨ s.st.toNat = 1) ∧
      t.pc = s.pc ∧ sameRegs s t ∧ t.i = s.i ∧ sameMem s t ∧ sameStack s t ∧ sameDisplay s t ∧ sameWait s t ∧
      (∀ k, t.key k = s.key k) ∧ t.lastKey = s.lastKey ∧ t.err = none ∧ t.phase = s.phase

/-- KeyDown latches a released-to-pressed transition and changes nothing for a key already down; KeyUp releases the key and
leaves the latch; the rest of the state is unchanged by both (the latch is the spec's decision D12; R160, R161, log
entry 16). -/
def Obligations.KeyMoves : Prop :=
  ∀ (s : State) (k : Key), s.err = none →
    (∃ t, move s (.keyDown k) = .next t ∧ t.key k = true ∧ (∀ j, j ≠ k → t.key j = s.key j) ∧
      (s.key k = true → t.lastKey = s.lastKey ∧ t.latchValid = s.latchValid) ∧
      (s.key k = false → t.lastKey = k ∧ t.latchValid = true) ∧
      t.awaiting = s.awaiting ∧ t.toneEnd = s.toneEnd ∧ t.err = none ∧ t.phase = s.phase ∧
      t.pc = s.pc ∧ sameRegs s t ∧ t.i = s.i ∧ sameMem s t ∧ sameStack s t ∧ sameDisplay s t ∧ sameTimers s t) ∧
    (∃ t, move s (.keyUp k) = .next t ∧ t.key k = false ∧ (∀ j, j ≠ k → t.key j = s.key j) ∧
      t.lastKey = s.lastKey ∧ sameWait s t ∧ t.toneEnd = s.toneEnd ∧ t.err = none ∧ t.phase = s.phase ∧
      t.pc = s.pc ∧ sameRegs s t ∧ t.i = s.i ∧ sameMem s t ∧ sameStack s t ∧ sameDisplay s t ∧ sameTimers s t)

/-- ClearDirty clears the dirty flag alone and AckToneEnd the tone-end event alone (R162, R163; that the event is held until
acknowledged is the spec's decision D16, log entry 18). -/
def Obligations.HostAcknowledgements : Prop :=
  ∀ s : State, s.err = none →
    (∃ t, move s .clearDirty = .next t ∧ t.dirty = false ∧ (∀ px py, t.px.pixel px py = s.px.pixel px py) ∧
      t.pc = s.pc ∧ sameRegs s t ∧ t.i = s.i ∧ sameMem s t ∧ sameStack s t ∧ sameTimers s t ∧ sameWait s t ∧
      sameHostSide s t) ∧
    (∃ t, move s .ackToneEnd = .next t ∧ t.toneEnd = false ∧ t.pc = s.pc ∧ sameRegs s t ∧ t.i = s.i ∧ sameMem s t ∧
      sameStack s t ∧ sameDisplay s t ∧ sameTimers s t ∧ sameWait s t ∧ (∀ k, t.key k = s.key k) ∧
      t.lastKey = s.lastKey ∧ t.err = none ∧ t.phase = s.phase)

/-! ## Reset and Load (spec/70_reset_and_hazards.md, spec/20_memory.md) -/

/-- Reset from any state, a halted one included, leaves every piece of state at the value of R30; memory is FONT in the glyph
table and 0x00 above it. The values D0 does not state are the spec's decisions D3, D15, FONT its parameter D4 (log entries 1,
7, 8). -/
def Obligations.ResetPutsTheStatedValues : Prop :=
  ∀ s : State, ∃ t, move s .reset = .next t ∧ (∀ z, t.reg z = 0) ∧ t.i = 0 ∧ t.pc.toNat = 0x200 ∧ t.sp.val = 0 ∧
    (∀ k, t.stack.get k = 0) ∧ (∀ a < 80, t.mem.read a = Config.font a) ∧
    (∀ a, 80 ≤ a → t.mem.read a = 0) ∧ (∀ px py, t.px.pixel px py = false) ∧ t.dirty = false ∧ t.dt = 0 ∧ t.st = 0 ∧
    t.toneEnd = false ∧ (∀ k, t.key k = false) ∧ t.awaiting = false ∧ t.latchValid = false ∧ t.lastKey = 0 ∧ t.err = none ∧
    t.phase = .fresh

/-- Load in phase Fresh puts the bytes at 0x200 on and changes nothing else but the phase; more than 3584 bytes raise
RomTooLarge; in another phase there is no Load (R52, R53; that it is refused then is the spec's decision D19, log
entry 20). -/
def Obligations.LoadPlacesTheProgram : Prop :=
  ∀ (s : State) (bytes : List Byte), s.err = none → s.mem.wf = true →
    (s.phase = .fresh → bytes.length ≤ 3584 → ∃ t, move s (.load bytes) = .next t ∧
      (∀ k, ∀ h : k < bytes.length, t.mem.read (0x200 + k) = bytes[k]) ∧ sameMemOutside 0x200 bytes.length s t ∧
      t.phase = .loaded ∧ t.pc = s.pc ∧ sameRegs s t ∧ t.i = s.i ∧ sameStack s t ∧ sameDisplay s t ∧ sameTimers s t ∧
      sameWait s t ∧ (∀ k, t.key k = s.key k) ∧ t.lastKey = s.lastKey ∧ t.toneEnd = s.toneEnd ∧ t.err = none) ∧
    (s.phase = .fresh → 3584 < bytes.length → ∃ t, move s (.load bytes) = .next t ∧ t.err = some .romTooLarge) ∧
    (s.phase ≠ .fresh → move s (.load bytes) = .refused .loadNotEnabled)

/-! ## The whole machine -/

/-- An instruction raises exactly the error the table of R140, R141 lists for it, and none where none is listed. -/
def Obligations.ErrorsAreExactlyThoseListed : Prop :=
  ∀ (i : Instr) (s t : State), s.err = none → exec i s = .next t → t.err = raises s i

/-- The registers an instruction may change are its destination, VF for the six flag writers, and V0 to VX for LD_REGS
(R10, R11). -/
def Obligations.OnlyDestinationRegistersChange : Prop :=
  ∀ (i : Instr) (s t : State), exec i s = .next t → raises s i = none → sameRegsExcept (destRegs i) s t

/-- The value a flag writer leaves in VF is 0 or 1, whatever X and Y are (R11). For X = F that VF ends as the flag, and so as 0
or 1, is the spec's decision D10 (R73 b, log entry 14). -/
def Obligations.FlagIsZeroOrOne : Prop :=
  ∀ (i : Instr) (s t : State), writesFlag i = true → exec i s = .next t → raises s i = none → t.reg 15 = 0 ∨ t.reg 15 = 1

/-- Who writes what: I only LD_I, ADD_I, LD_FONT; memory only LD_BCD, ST_REGS; the stack only CALL, RET; the display only CLS,
DRW; DT only LD_DT_VX and ST only LD_ST_VX; the wait state and the latch only LD_VX_KEY; and no instruction writes the key
states, the last key, the tone-end event, the error latch or the phase (R12, R14, R16, R18, R19, R23, R34). That only LD_VX_KEY
touches the latch is the spec's decision D12 (log entry 16), and that LD_ST_VX leaves tone_end is its decision D16 (log entry
18). The last clause is about `draws`, the model's own counter of free values, which no instruction takes down (DESIGN CHOICE,
log entry 3). -/
def Obligations.WhoWritesWhat : Prop :=
  ∀ (i : Instr) (s t : State), exec i s = .next t → raises s i = none →
    ((∀ nnn, i ≠ .ldI nnn) → (∀ x, i ≠ .addI x ∧ i ≠ .ldFont x) → t.i = s.i) ∧
    ((∀ x, i ≠ .ldBcd x ∧ i ≠ .stRegs x) → sameMem s t) ∧
    (i ≠ .ret → (∀ nnn, i ≠ .call nnn) → sameStack s t) ∧
    (i ≠ .cls → (∀ x y n, i ≠ .drw x y n) → sameDisplay s t) ∧
    ((∀ x, i ≠ .ldDtVx x) → t.dt = s.dt) ∧ ((∀ x, i ≠ .ldStVx x) → t.st = s.st) ∧
    ((∀ x, i ≠ .ldVxKey x) → sameWait s t) ∧ sameHostSide s t ∧ s.draws ≤ t.draws

/-- PC after an instruction that raises nothing is exactly the one of the four cases of R72 that is the instruction's
(`Safety.pcAfter`): (a) PC + 2 by default and for a skip not taken; (b) PC + 4 for a skip taken; (c) the target of a control
transfer, which is NNN for JP and CALL, NNN + V[0] for JP_V0 and the top of the stack for RET; (d) PC itself for an FX0A with no
latched press. That RET adds nothing to the popped entry is the spec's decision D6 (log entry 10), the key that SKP and SKNP
test its decision D11 (log entry 15), the latch its decision D12 (log entry 16). -/
def Obligations.PcFollowsOneOfFourCases : Prop :=
  ∀ (i : Instr) (s t : State), exec i s = .next t → raises s i = none → t.pc = pcAfter s i

/-- The reset state meets the invariant of the machine. -/
def Obligations.ResetMeetsTheInvariant : Prop := Inv State.reset

/-- Every Step keeps the invariant: memory in canonical form; a live engine that waits is parked on an FX0A; PC at most 0x10FE
and every valid return address at most 0x1000; no wait before the first Step. -/
def Obligations.StepKeepsTheInvariant : Prop :=
  ∀ s t : State, Inv s → step s = .next t → Inv t

/-- Every run of Steps and host moves, in any order and number, keeps the invariant. -/
def Obligations.EveryRunKeepsTheInvariant : Prop :=
  ∀ (ms : List Move) (s t : State), Inv s → runMoves s ms = .next t → Inv t

/-- Only Reset leaves a fatal error: after any moves without a Reset the latched kind stands (R147, R171). -/
def Obligations.OnlyResetClearsAnError : Prop :=
  ∀ (ms : List Move) (s t : State) (k : FatalKind), s.err = some k → Move.reset ∉ ms → runMoves s ms = .next t →
    t.err = some k ∧ t = s

/-- A Step changes DT only by executing LD_DT_VX, and ST only by executing LD_ST_VX, each to the value of V[X]: no Step
decrements a counter (R158). That no Step changes tone_end, an LD_ST_VX that writes 0 included, is the spec's decision D16
(log entry 18). -/
def Obligations.StepsDoNotTick : Prop :=
  ∀ s t : State, s.err = none → step s = .next t → t.err = none →
    t.toneEnd = s.toneEnd ∧
    (t.dt ≠ s.dt → ∃ op x, s.fetch = .ok op ∧ decodeWord op = .ok (.ldDtVx x) ∧ t.dt = s.reg x) ∧
    (t.st ≠ s.st → ∃ op x, s.fetch = .ok op ∧ decodeWord op = .ok (.ldStVx x) ∧ t.st = s.reg x)
end

