-- ==== Sys2Proof/Laws/State.lean ====
section
/-! SUPPORT. The fields of the state after each update: one lemma a field and update, true by rfl. -/

namespace Sys2Proof.Machine.State

variable (s : State)

/-! `setReg` -/

@[simp] theorem setReg_v (x : Reg) (b : Byte) : (s.setReg x b).v = s.v.set x.val b x.isLt := rfl
@[simp] theorem setReg_i (x : Reg) (b : Byte) : (s.setReg x b).i = s.i := rfl
@[simp] theorem setReg_pc (x : Reg) (b : Byte) : (s.setReg x b).pc = s.pc := rfl
@[simp] theorem setReg_stack (x : Reg) (b : Byte) : (s.setReg x b).stack = s.stack := rfl
@[simp] theorem setReg_sp (x : Reg) (b : Byte) : (s.setReg x b).sp = s.sp := rfl
@[simp] theorem setReg_mem (x : Reg) (b : Byte) : (s.setReg x b).mem = s.mem := rfl
@[simp] theorem setReg_px (x : Reg) (b : Byte) : (s.setReg x b).px = s.px := rfl
@[simp] theorem setReg_dirty (x : Reg) (b : Byte) : (s.setReg x b).dirty = s.dirty := rfl
@[simp] theorem setReg_dt (x : Reg) (b : Byte) : (s.setReg x b).dt = s.dt := rfl
@[simp] theorem setReg_st (x : Reg) (b : Byte) : (s.setReg x b).st = s.st := rfl
@[simp] theorem setReg_toneEnd (x : Reg) (b : Byte) : (s.setReg x b).toneEnd = s.toneEnd := rfl
@[simp] theorem setReg_keys (x : Reg) (b : Byte) : (s.setReg x b).keys = s.keys := rfl
@[simp] theorem setReg_awaiting (x : Reg) (b : Byte) : (s.setReg x b).awaiting = s.awaiting := rfl
@[simp] theorem setReg_latchValid (x : Reg) (b : Byte) : (s.setReg x b).latchValid = s.latchValid := rfl
@[simp] theorem setReg_lastKey (x : Reg) (b : Byte) : (s.setReg x b).lastKey = s.lastKey := rfl
@[simp] theorem setReg_err (x : Reg) (b : Byte) : (s.setReg x b).err = s.err := rfl
@[simp] theorem setReg_phase (x : Reg) (b : Byte) : (s.setReg x b).phase = s.phase := rfl
@[simp] theorem setReg_draws (x : Reg) (b : Byte) : (s.setReg x b).draws = s.draws := rfl

/-! `setV` -/

@[simp] theorem setV_v (w : Vector Byte 16) : (s.setV w).v = w := rfl
@[simp] theorem setV_i (w : Vector Byte 16) : (s.setV w).i = s.i := rfl
@[simp] theorem setV_pc (w : Vector Byte 16) : (s.setV w).pc = s.pc := rfl
@[simp] theorem setV_stack (w : Vector Byte 16) : (s.setV w).stack = s.stack := rfl
@[simp] theorem setV_sp (w : Vector Byte 16) : (s.setV w).sp = s.sp := rfl
@[simp] theorem setV_mem (w : Vector Byte 16) : (s.setV w).mem = s.mem := rfl
@[simp] theorem setV_px (w : Vector Byte 16) : (s.setV w).px = s.px := rfl
@[simp] theorem setV_dirty (w : Vector Byte 16) : (s.setV w).dirty = s.dirty := rfl
@[simp] theorem setV_dt (w : Vector Byte 16) : (s.setV w).dt = s.dt := rfl
@[simp] theorem setV_st (w : Vector Byte 16) : (s.setV w).st = s.st := rfl
@[simp] theorem setV_toneEnd (w : Vector Byte 16) : (s.setV w).toneEnd = s.toneEnd := rfl
@[simp] theorem setV_keys (w : Vector Byte 16) : (s.setV w).keys = s.keys := rfl
@[simp] theorem setV_awaiting (w : Vector Byte 16) : (s.setV w).awaiting = s.awaiting := rfl
@[simp] theorem setV_latchValid (w : Vector Byte 16) : (s.setV w).latchValid = s.latchValid := rfl
@[simp] theorem setV_lastKey (w : Vector Byte 16) : (s.setV w).lastKey = s.lastKey := rfl
@[simp] theorem setV_err (w : Vector Byte 16) : (s.setV w).err = s.err := rfl
@[simp] theorem setV_phase (w : Vector Byte 16) : (s.setV w).phase = s.phase := rfl
@[simp] theorem setV_draws (w : Vector Byte 16) : (s.setV w).draws = s.draws := rfl

/-! `setI` -/

@[simp] theorem setI_v (w : Word) : (s.setI w).v = s.v := rfl
@[simp] theorem setI_i (w : Word) : (s.setI w).i = w := rfl
@[simp] theorem setI_pc (w : Word) : (s.setI w).pc = s.pc := rfl
@[simp] theorem setI_stack (w : Word) : (s.setI w).stack = s.stack := rfl
@[simp] theorem setI_sp (w : Word) : (s.setI w).sp = s.sp := rfl
@[simp] theorem setI_mem (w : Word) : (s.setI w).mem = s.mem := rfl
@[simp] theorem setI_px (w : Word) : (s.setI w).px = s.px := rfl
@[simp] theorem setI_dirty (w : Word) : (s.setI w).dirty = s.dirty := rfl
@[simp] theorem setI_dt (w : Word) : (s.setI w).dt = s.dt := rfl
@[simp] theorem setI_st (w : Word) : (s.setI w).st = s.st := rfl
@[simp] theorem setI_toneEnd (w : Word) : (s.setI w).toneEnd = s.toneEnd := rfl
@[simp] theorem setI_keys (w : Word) : (s.setI w).keys = s.keys := rfl
@[simp] theorem setI_awaiting (w : Word) : (s.setI w).awaiting = s.awaiting := rfl
@[simp] theorem setI_latchValid (w : Word) : (s.setI w).latchValid = s.latchValid := rfl
@[simp] theorem setI_lastKey (w : Word) : (s.setI w).lastKey = s.lastKey := rfl
@[simp] theorem setI_err (w : Word) : (s.setI w).err = s.err := rfl
@[simp] theorem setI_phase (w : Word) : (s.setI w).phase = s.phase := rfl
@[simp] theorem setI_draws (w : Word) : (s.setI w).draws = s.draws := rfl

/-! `setPc` -/

@[simp] theorem setPc_v (w : Word) : (s.setPc w).v = s.v := rfl
@[simp] theorem setPc_i (w : Word) : (s.setPc w).i = s.i := rfl
@[simp] theorem setPc_pc (w : Word) : (s.setPc w).pc = w := rfl
@[simp] theorem setPc_stack (w : Word) : (s.setPc w).stack = s.stack := rfl
@[simp] theorem setPc_sp (w : Word) : (s.setPc w).sp = s.sp := rfl
@[simp] theorem setPc_mem (w : Word) : (s.setPc w).mem = s.mem := rfl
@[simp] theorem setPc_px (w : Word) : (s.setPc w).px = s.px := rfl
@[simp] theorem setPc_dirty (w : Word) : (s.setPc w).dirty = s.dirty := rfl
@[simp] theorem setPc_dt (w : Word) : (s.setPc w).dt = s.dt := rfl
@[simp] theorem setPc_st (w : Word) : (s.setPc w).st = s.st := rfl
@[simp] theorem setPc_toneEnd (w : Word) : (s.setPc w).toneEnd = s.toneEnd := rfl
@[simp] theorem setPc_keys (w : Word) : (s.setPc w).keys = s.keys := rfl
@[simp] theorem setPc_awaiting (w : Word) : (s.setPc w).awaiting = s.awaiting := rfl
@[simp] theorem setPc_latchValid (w : Word) : (s.setPc w).latchValid = s.latchValid := rfl
@[simp] theorem setPc_lastKey (w : Word) : (s.setPc w).lastKey = s.lastKey := rfl
@[simp] theorem setPc_err (w : Word) : (s.setPc w).err = s.err := rfl
@[simp] theorem setPc_phase (w : Word) : (s.setPc w).phase = s.phase := rfl
@[simp] theorem setPc_draws (w : Word) : (s.setPc w).draws = s.draws := rfl

/-! `setMem` -/

@[simp] theorem setMem_v (m : Memory) : (s.setMem m).v = s.v := rfl
@[simp] theorem setMem_i (m : Memory) : (s.setMem m).i = s.i := rfl
@[simp] theorem setMem_pc (m : Memory) : (s.setMem m).pc = s.pc := rfl
@[simp] theorem setMem_stack (m : Memory) : (s.setMem m).stack = s.stack := rfl
@[simp] theorem setMem_sp (m : Memory) : (s.setMem m).sp = s.sp := rfl
@[simp] theorem setMem_mem (m : Memory) : (s.setMem m).mem = m := rfl
@[simp] theorem setMem_px (m : Memory) : (s.setMem m).px = s.px := rfl
@[simp] theorem setMem_dirty (m : Memory) : (s.setMem m).dirty = s.dirty := rfl
@[simp] theorem setMem_dt (m : Memory) : (s.setMem m).dt = s.dt := rfl
@[simp] theorem setMem_st (m : Memory) : (s.setMem m).st = s.st := rfl
@[simp] theorem setMem_toneEnd (m : Memory) : (s.setMem m).toneEnd = s.toneEnd := rfl
@[simp] theorem setMem_keys (m : Memory) : (s.setMem m).keys = s.keys := rfl
@[simp] theorem setMem_awaiting (m : Memory) : (s.setMem m).awaiting = s.awaiting := rfl
@[simp] theorem setMem_latchValid (m : Memory) : (s.setMem m).latchValid = s.latchValid := rfl
@[simp] theorem setMem_lastKey (m : Memory) : (s.setMem m).lastKey = s.lastKey := rfl
@[simp] theorem setMem_err (m : Memory) : (s.setMem m).err = s.err := rfl
@[simp] theorem setMem_phase (m : Memory) : (s.setMem m).phase = s.phase := rfl
@[simp] theorem setMem_draws (m : Memory) : (s.setMem m).draws = s.draws := rfl

/-! `setPx` -/

@[simp] theorem setPx_v (p : Display) : (s.setPx p).v = s.v := rfl
@[simp] theorem setPx_i (p : Display) : (s.setPx p).i = s.i := rfl
@[simp] theorem setPx_pc (p : Display) : (s.setPx p).pc = s.pc := rfl
@[simp] theorem setPx_stack (p : Display) : (s.setPx p).stack = s.stack := rfl
@[simp] theorem setPx_sp (p : Display) : (s.setPx p).sp = s.sp := rfl
@[simp] theorem setPx_mem (p : Display) : (s.setPx p).mem = s.mem := rfl
@[simp] theorem setPx_px (p : Display) : (s.setPx p).px = p := rfl
@[simp] theorem setPx_dirty (p : Display) : (s.setPx p).dirty = true := rfl
@[simp] theorem setPx_dt (p : Display) : (s.setPx p).dt = s.dt := rfl
@[simp] theorem setPx_st (p : Display) : (s.setPx p).st = s.st := rfl
@[simp] theorem setPx_toneEnd (p : Display) : (s.setPx p).toneEnd = s.toneEnd := rfl
@[simp] theorem setPx_keys (p : Display) : (s.setPx p).keys = s.keys := rfl
@[simp] theorem setPx_awaiting (p : Display) : (s.setPx p).awaiting = s.awaiting := rfl
@[simp] theorem setPx_latchValid (p : Display) : (s.setPx p).latchValid = s.latchValid := rfl
@[simp] theorem setPx_lastKey (p : Display) : (s.setPx p).lastKey = s.lastKey := rfl
@[simp] theorem setPx_err (p : Display) : (s.setPx p).err = s.err := rfl
@[simp] theorem setPx_phase (p : Display) : (s.setPx p).phase = s.phase := rfl
@[simp] theorem setPx_draws (p : Display) : (s.setPx p).draws = s.draws := rfl

/-! `setDt` -/

@[simp] theorem setDt_v (b : Byte) : (s.setDt b).v = s.v := rfl
@[simp] theorem setDt_i (b : Byte) : (s.setDt b).i = s.i := rfl
@[simp] theorem setDt_pc (b : Byte) : (s.setDt b).pc = s.pc := rfl
@[simp] theorem setDt_stack (b : Byte) : (s.setDt b).stack = s.stack := rfl
@[simp] theorem setDt_sp (b : Byte) : (s.setDt b).sp = s.sp := rfl
@[simp] theorem setDt_mem (b : Byte) : (s.setDt b).mem = s.mem := rfl
@[simp] theorem setDt_px (b : Byte) : (s.setDt b).px = s.px := rfl
@[simp] theorem setDt_dirty (b : Byte) : (s.setDt b).dirty = s.dirty := rfl
@[simp] theorem setDt_dt (b : Byte) : (s.setDt b).dt = b := rfl
@[simp] theorem setDt_st (b : Byte) : (s.setDt b).st = s.st := rfl
@[simp] theorem setDt_toneEnd (b : Byte) : (s.setDt b).toneEnd = s.toneEnd := rfl
@[simp] theorem setDt_keys (b : Byte) : (s.setDt b).keys = s.keys := rfl
@[simp] theorem setDt_awaiting (b : Byte) : (s.setDt b).awaiting = s.awaiting := rfl
@[simp] theorem setDt_latchValid (b : Byte) : (s.setDt b).latchValid = s.latchValid := rfl
@[simp] theorem setDt_lastKey (b : Byte) : (s.setDt b).lastKey = s.lastKey := rfl
@[simp] theorem setDt_err (b : Byte) : (s.setDt b).err = s.err := rfl
@[simp] theorem setDt_phase (b : Byte) : (s.setDt b).phase = s.phase := rfl
@[simp] theorem setDt_draws (b : Byte) : (s.setDt b).draws = s.draws := rfl

/-! `setSt` -/

@[simp] theorem setSt_v (b : Byte) : (s.setSt b).v = s.v := rfl
@[simp] theorem setSt_i (b : Byte) : (s.setSt b).i = s.i := rfl
@[simp] theorem setSt_pc (b : Byte) : (s.setSt b).pc = s.pc := rfl
@[simp] theorem setSt_stack (b : Byte) : (s.setSt b).stack = s.stack := rfl
@[simp] theorem setSt_sp (b : Byte) : (s.setSt b).sp = s.sp := rfl
@[simp] theorem setSt_mem (b : Byte) : (s.setSt b).mem = s.mem := rfl
@[simp] theorem setSt_px (b : Byte) : (s.setSt b).px = s.px := rfl
@[simp] theorem setSt_dirty (b : Byte) : (s.setSt b).dirty = s.dirty := rfl
@[simp] theorem setSt_dt (b : Byte) : (s.setSt b).dt = s.dt := rfl
@[simp] theorem setSt_st (b : Byte) : (s.setSt b).st = b := rfl
@[simp] theorem setSt_toneEnd (b : Byte) : (s.setSt b).toneEnd = s.toneEnd := rfl
@[simp] theorem setSt_keys (b : Byte) : (s.setSt b).keys = s.keys := rfl
@[simp] theorem setSt_awaiting (b : Byte) : (s.setSt b).awaiting = s.awaiting := rfl
@[simp] theorem setSt_latchValid (b : Byte) : (s.setSt b).latchValid = s.latchValid := rfl
@[simp] theorem setSt_lastKey (b : Byte) : (s.setSt b).lastKey = s.lastKey := rfl
@[simp] theorem setSt_err (b : Byte) : (s.setSt b).err = s.err := rfl
@[simp] theorem setSt_phase (b : Byte) : (s.setSt b).phase = s.phase := rfl
@[simp] theorem setSt_draws (b : Byte) : (s.setSt b).draws = s.draws := rfl

/-! `setPhase` -/

@[simp] theorem setPhase_v (p : Phase) : (s.setPhase p).v = s.v := rfl
@[simp] theorem setPhase_i (p : Phase) : (s.setPhase p).i = s.i := rfl
@[simp] theorem setPhase_pc (p : Phase) : (s.setPhase p).pc = s.pc := rfl
@[simp] theorem setPhase_stack (p : Phase) : (s.setPhase p).stack = s.stack := rfl
@[simp] theorem setPhase_sp (p : Phase) : (s.setPhase p).sp = s.sp := rfl
@[simp] theorem setPhase_mem (p : Phase) : (s.setPhase p).mem = s.mem := rfl
@[simp] theorem setPhase_px (p : Phase) : (s.setPhase p).px = s.px := rfl
@[simp] theorem setPhase_dirty (p : Phase) : (s.setPhase p).dirty = s.dirty := rfl
@[simp] theorem setPhase_dt (p : Phase) : (s.setPhase p).dt = s.dt := rfl
@[simp] theorem setPhase_st (p : Phase) : (s.setPhase p).st = s.st := rfl
@[simp] theorem setPhase_toneEnd (p : Phase) : (s.setPhase p).toneEnd = s.toneEnd := rfl
@[simp] theorem setPhase_keys (p : Phase) : (s.setPhase p).keys = s.keys := rfl
@[simp] theorem setPhase_awaiting (p : Phase) : (s.setPhase p).awaiting = s.awaiting := rfl
@[simp] theorem setPhase_latchValid (p : Phase) : (s.setPhase p).latchValid = s.latchValid := rfl
@[simp] theorem setPhase_lastKey (p : Phase) : (s.setPhase p).lastKey = s.lastKey := rfl
@[simp] theorem setPhase_err (p : Phase) : (s.setPhase p).err = s.err := rfl
@[simp] theorem setPhase_phase (p : Phase) : (s.setPhase p).phase = p := rfl
@[simp] theorem setPhase_draws (p : Phase) : (s.setPhase p).draws = s.draws := rfl

/-! `park` -/

@[simp] theorem park_v : s.park.v = s.v := rfl
@[simp] theorem park_i : s.park.i = s.i := rfl
@[simp] theorem park_pc : s.park.pc = s.pc := rfl
@[simp] theorem park_stack : s.park.stack = s.stack := rfl
@[simp] theorem park_sp : s.park.sp = s.sp := rfl
@[simp] theorem park_mem : s.park.mem = s.mem := rfl
@[simp] theorem park_px : s.park.px = s.px := rfl
@[simp] theorem park_dirty : s.park.dirty = s.dirty := rfl
@[simp] theorem park_dt : s.park.dt = s.dt := rfl
@[simp] theorem park_st : s.park.st = s.st := rfl
@[simp] theorem park_toneEnd : s.park.toneEnd = s.toneEnd := rfl
@[simp] theorem park_keys : s.park.keys = s.keys := rfl
@[simp] theorem park_awaiting : s.park.awaiting = true := rfl
@[simp] theorem park_latchValid : s.park.latchValid = s.latchValid := rfl
@[simp] theorem park_lastKey : s.park.lastKey = s.lastKey := rfl
@[simp] theorem park_err : s.park.err = s.err := rfl
@[simp] theorem park_phase : s.park.phase = s.phase := rfl
@[simp] theorem park_draws : s.park.draws = s.draws := rfl

/-! `consumeKey` -/

@[simp] theorem consumeKey_v : s.consumeKey.v = s.v := rfl
@[simp] theorem consumeKey_i : s.consumeKey.i = s.i := rfl
@[simp] theorem consumeKey_pc : s.consumeKey.pc = s.pc := rfl
@[simp] theorem consumeKey_stack : s.consumeKey.stack = s.stack := rfl
@[simp] theorem consumeKey_sp : s.consumeKey.sp = s.sp := rfl
@[simp] theorem consumeKey_mem : s.consumeKey.mem = s.mem := rfl
@[simp] theorem consumeKey_px : s.consumeKey.px = s.px := rfl
@[simp] theorem consumeKey_dirty : s.consumeKey.dirty = s.dirty := rfl
@[simp] theorem consumeKey_dt : s.consumeKey.dt = s.dt := rfl
@[simp] theorem consumeKey_st : s.consumeKey.st = s.st := rfl
@[simp] theorem consumeKey_toneEnd : s.consumeKey.toneEnd = s.toneEnd := rfl
@[simp] theorem consumeKey_keys : s.consumeKey.keys = s.keys := rfl
@[simp] theorem consumeKey_awaiting : s.consumeKey.awaiting = false := rfl
@[simp] theorem consumeKey_latchValid : s.consumeKey.latchValid = false := rfl
@[simp] theorem consumeKey_lastKey : s.consumeKey.lastKey = s.lastKey := rfl
@[simp] theorem consumeKey_err : s.consumeKey.err = s.err := rfl
@[simp] theorem consumeKey_phase : s.consumeKey.phase = s.phase := rfl
@[simp] theorem consumeKey_draws : s.consumeKey.draws = s.draws := rfl

/-! `nextDraw` -/

@[simp] theorem nextDraw_v : s.nextDraw.v = s.v := rfl
@[simp] theorem nextDraw_i : s.nextDraw.i = s.i := rfl
@[simp] theorem nextDraw_pc : s.nextDraw.pc = s.pc := rfl
@[simp] theorem nextDraw_stack : s.nextDraw.stack = s.stack := rfl
@[simp] theorem nextDraw_sp : s.nextDraw.sp = s.sp := rfl
@[simp] theorem nextDraw_mem : s.nextDraw.mem = s.mem := rfl
@[simp] theorem nextDraw_px : s.nextDraw.px = s.px := rfl
@[simp] theorem nextDraw_dirty : s.nextDraw.dirty = s.dirty := rfl
@[simp] theorem nextDraw_dt : s.nextDraw.dt = s.dt := rfl
@[simp] theorem nextDraw_st : s.nextDraw.st = s.st := rfl
@[simp] theorem nextDraw_toneEnd : s.nextDraw.toneEnd = s.toneEnd := rfl
@[simp] theorem nextDraw_keys : s.nextDraw.keys = s.keys := rfl
@[simp] theorem nextDraw_awaiting : s.nextDraw.awaiting = s.awaiting := rfl
@[simp] theorem nextDraw_latchValid : s.nextDraw.latchValid = s.latchValid := rfl
@[simp] theorem nextDraw_lastKey : s.nextDraw.lastKey = s.lastKey := rfl
@[simp] theorem nextDraw_err : s.nextDraw.err = s.err := rfl
@[simp] theorem nextDraw_phase : s.nextDraw.phase = s.phase := rfl
@[simp] theorem nextDraw_draws : s.nextDraw.draws = s.draws + 1 := rfl

/-! `advance` -/

@[simp] theorem advance_v : s.advance.v = s.v := rfl
@[simp] theorem advance_i : s.advance.i = s.i := rfl
@[simp] theorem advance_pc : s.advance.pc = s.pc + 2 := rfl
@[simp] theorem advance_stack : s.advance.stack = s.stack := rfl
@[simp] theorem advance_sp : s.advance.sp = s.sp := rfl
@[simp] theorem advance_mem : s.advance.mem = s.mem := rfl
@[simp] theorem advance_px : s.advance.px = s.px := rfl
@[simp] theorem advance_dirty : s.advance.dirty = s.dirty := rfl
@[simp] theorem advance_dt : s.advance.dt = s.dt := rfl
@[simp] theorem advance_st : s.advance.st = s.st := rfl
@[simp] theorem advance_toneEnd : s.advance.toneEnd = s.toneEnd := rfl
@[simp] theorem advance_keys : s.advance.keys = s.keys := rfl
@[simp] theorem advance_awaiting : s.advance.awaiting = s.awaiting := rfl
@[simp] theorem advance_latchValid : s.advance.latchValid = s.latchValid := rfl
@[simp] theorem advance_lastKey : s.advance.lastKey = s.lastKey := rfl
@[simp] theorem advance_err : s.advance.err = s.err := rfl
@[simp] theorem advance_phase : s.advance.phase = s.phase := rfl
@[simp] theorem advance_draws : s.advance.draws = s.draws := rfl

/-! `skipIf` -/

@[simp] theorem skipIf_v (c : Bool) : (s.skipIf c).v = s.v := rfl
@[simp] theorem skipIf_i (c : Bool) : (s.skipIf c).i = s.i := rfl
@[simp] theorem skipIf_pc (c : Bool) : (s.skipIf c).pc = if c then s.pc + 4 else s.pc + 2 := rfl
@[simp] theorem skipIf_stack (c : Bool) : (s.skipIf c).stack = s.stack := rfl
@[simp] theorem skipIf_sp (c : Bool) : (s.skipIf c).sp = s.sp := rfl
@[simp] theorem skipIf_mem (c : Bool) : (s.skipIf c).mem = s.mem := rfl
@[simp] theorem skipIf_px (c : Bool) : (s.skipIf c).px = s.px := rfl
@[simp] theorem skipIf_dirty (c : Bool) : (s.skipIf c).dirty = s.dirty := rfl
@[simp] theorem skipIf_dt (c : Bool) : (s.skipIf c).dt = s.dt := rfl
@[simp] theorem skipIf_st (c : Bool) : (s.skipIf c).st = s.st := rfl
@[simp] theorem skipIf_toneEnd (c : Bool) : (s.skipIf c).toneEnd = s.toneEnd := rfl
@[simp] theorem skipIf_keys (c : Bool) : (s.skipIf c).keys = s.keys := rfl
@[simp] theorem skipIf_awaiting (c : Bool) : (s.skipIf c).awaiting = s.awaiting := rfl
@[simp] theorem skipIf_latchValid (c : Bool) : (s.skipIf c).latchValid = s.latchValid := rfl
@[simp] theorem skipIf_lastKey (c : Bool) : (s.skipIf c).lastKey = s.lastKey := rfl
@[simp] theorem skipIf_err (c : Bool) : (s.skipIf c).err = s.err := rfl
@[simp] theorem skipIf_phase (c : Bool) : (s.skipIf c).phase = s.phase := rfl
@[simp] theorem skipIf_draws (c : Bool) : (s.skipIf c).draws = s.draws := rfl

/-! `push` -/

@[simp] theorem push_v (w : Word) (h : s.sp.val < 16) : (s.push w h).v = s.v := rfl
@[simp] theorem push_i (w : Word) (h : s.sp.val < 16) : (s.push w h).i = s.i := rfl
@[simp] theorem push_pc (w : Word) (h : s.sp.val < 16) : (s.push w h).pc = s.pc := rfl
@[simp] theorem push_stack (w : Word) (h : s.sp.val < 16) : (s.push w h).stack = s.stack.set s.sp.val w h := rfl
@[simp] theorem push_sp (w : Word) (h : s.sp.val < 16) : (s.push w h).sp = ⟨s.sp.val + 1, by omega⟩ := rfl
@[simp] theorem push_mem (w : Word) (h : s.sp.val < 16) : (s.push w h).mem = s.mem := rfl
@[simp] theorem push_px (w : Word) (h : s.sp.val < 16) : (s.push w h).px = s.px := rfl
@[simp] theorem push_dirty (w : Word) (h : s.sp.val < 16) : (s.push w h).dirty = s.dirty := rfl
@[simp] theorem push_dt (w : Word) (h : s.sp.val < 16) : (s.push w h).dt = s.dt := rfl
@[simp] theorem push_st (w : Word) (h : s.sp.val < 16) : (s.push w h).st = s.st := rfl
@[simp] theorem push_toneEnd (w : Word) (h : s.sp.val < 16) : (s.push w h).toneEnd = s.toneEnd := rfl
@[simp] theorem push_keys (w : Word) (h : s.sp.val < 16) : (s.push w h).keys = s.keys := rfl
@[simp] theorem push_awaiting (w : Word) (h : s.sp.val < 16) : (s.push w h).awaiting = s.awaiting := rfl
@[simp] theorem push_latchValid (w : Word) (h : s.sp.val < 16) : (s.push w h).latchValid = s.latchValid := rfl
@[simp] theorem push_lastKey (w : Word) (h : s.sp.val < 16) : (s.push w h).lastKey = s.lastKey := rfl
@[simp] theorem push_err (w : Word) (h : s.sp.val < 16) : (s.push w h).err = s.err := rfl
@[simp] theorem push_phase (w : Word) (h : s.sp.val < 16) : (s.push w h).phase = s.phase := rfl
@[simp] theorem push_draws (w : Word) (h : s.sp.val < 16) : (s.push w h).draws = s.draws := rfl

/-! `pop` -/

@[simp] theorem pop_v : s.pop.v = s.v := rfl
@[simp] theorem pop_i : s.pop.i = s.i := rfl
@[simp] theorem pop_pc : s.pop.pc = s.pc := rfl
@[simp] theorem pop_stack : s.pop.stack = s.stack := rfl
@[simp] theorem pop_sp : s.pop.sp = ⟨s.sp.val - 1, by have := s.sp.isLt; omega⟩ := rfl
@[simp] theorem pop_mem : s.pop.mem = s.mem := rfl
@[simp] theorem pop_px : s.pop.px = s.px := rfl
@[simp] theorem pop_dirty : s.pop.dirty = s.dirty := rfl
@[simp] theorem pop_dt : s.pop.dt = s.dt := rfl
@[simp] theorem pop_st : s.pop.st = s.st := rfl
@[simp] theorem pop_toneEnd : s.pop.toneEnd = s.toneEnd := rfl
@[simp] theorem pop_keys : s.pop.keys = s.keys := rfl
@[simp] theorem pop_awaiting : s.pop.awaiting = s.awaiting := rfl
@[simp] theorem pop_latchValid : s.pop.latchValid = s.latchValid := rfl
@[simp] theorem pop_lastKey : s.pop.lastKey = s.lastKey := rfl
@[simp] theorem pop_err : s.pop.err = s.err := rfl
@[simp] theorem pop_phase : s.pop.phase = s.phase := rfl
@[simp] theorem pop_draws : s.pop.draws = s.draws := rfl

/-! `raiseFatal`: what the spec fixes of the state after a fatal error. -/

@[simp] theorem raiseFatal_err (k : FatalKind) : (s.raiseFatal k).err = some k := rfl
@[simp] theorem raiseFatal_phase (k : FatalKind) : (s.raiseFatal k).phase = s.phase := rfl
@[simp] theorem raiseFatal_draws (k : FatalKind) : (s.raiseFatal k).draws = s.draws + 1 := rfl

/-! Registers and keys read through their accessors. -/

theorem reg_def (x : Reg) : s.reg x = s.v[x.val] := rfl

theorem reg_setReg (x z : Reg) (b : Byte) : (s.setReg x b).reg z = if z = x then b else s.reg z := by
  simp only [reg_def, setReg_v, Vector.getElem_set, Fin.ext_iff, eq_comm]

@[simp] theorem reg_setReg_same (x : Reg) (b : Byte) : (s.setReg x b).reg x = b := by simp [reg_setReg]

theorem reg_setReg_ne {x z : Reg} (h : z ≠ x) (b : Byte) : (s.setReg x b).reg z = s.reg z := by simp [reg_setReg, h]

@[simp] theorem setI_reg (w : Word) (z : Reg) : (s.setI w).reg z = s.reg z := rfl
@[simp] theorem setPc_reg (w : Word) (z : Reg) : (s.setPc w).reg z = s.reg z := rfl
@[simp] theorem setMem_reg (m : Memory) (z : Reg) : (s.setMem m).reg z = s.reg z := rfl
@[simp] theorem setPx_reg (p : Display) (z : Reg) : (s.setPx p).reg z = s.reg z := rfl
@[simp] theorem setDt_reg (b : Byte) (z : Reg) : (s.setDt b).reg z = s.reg z := rfl
@[simp] theorem setSt_reg (b : Byte) (z : Reg) : (s.setSt b).reg z = s.reg z := rfl
@[simp] theorem setPhase_reg (p : Phase) (z : Reg) : (s.setPhase p).reg z = s.reg z := rfl
@[simp] theorem park_reg (z : Reg) : (s.park).reg z = s.reg z := rfl
@[simp] theorem consumeKey_reg (z : Reg) : (s.consumeKey).reg z = s.reg z := rfl
@[simp] theorem nextDraw_reg (z : Reg) : (s.nextDraw).reg z = s.reg z := rfl
@[simp] theorem advance_reg (z : Reg) : (s.advance).reg z = s.reg z := rfl
@[simp] theorem skipIf_reg (c : Bool) (z : Reg) : (s.skipIf c).reg z = s.reg z := rfl
@[simp] theorem push_reg (w : Word) (h : s.sp.val < 16) (z : Reg) : (s.push w h).reg z = s.reg z := rfl
@[simp] theorem pop_reg (z : Reg) : (s.pop).reg z = s.reg z := rfl

@[simp] theorem setReg_key (x : Reg) (b : Byte) (k : Key) : (s.setReg x b).key k = s.key k := rfl
@[simp] theorem setV_key (w : Vector Byte 16) (k : Key) : (s.setV w).key k = s.key k := rfl
@[simp] theorem setI_key (w : Word) (k : Key) : (s.setI w).key k = s.key k := rfl
@[simp] theorem setPc_key (w : Word) (k : Key) : (s.setPc w).key k = s.key k := rfl
@[simp] theorem setMem_key (m : Memory) (k : Key) : (s.setMem m).key k = s.key k := rfl
@[simp] theorem setPx_key (p : Display) (k : Key) : (s.setPx p).key k = s.key k := rfl
@[simp] theorem setDt_key (b : Byte) (k : Key) : (s.setDt b).key k = s.key k := rfl
@[simp] theorem setSt_key (b : Byte) (k : Key) : (s.setSt b).key k = s.key k := rfl
@[simp] theorem setPhase_key (p : Phase) (k : Key) : (s.setPhase p).key k = s.key k := rfl
@[simp] theorem park_key (k : Key) : (s.park).key k = s.key k := rfl
@[simp] theorem consumeKey_key (k : Key) : (s.consumeKey).key k = s.key k := rfl
@[simp] theorem nextDraw_key (k : Key) : (s.nextDraw).key k = s.key k := rfl
@[simp] theorem advance_key (k : Key) : (s.advance).key k = s.key k := rfl
@[simp] theorem skipIf_key (c : Bool) (k : Key) : (s.skipIf c).key k = s.key k := rfl
@[simp] theorem push_key (w : Word) (h : s.sp.val < 16) (k : Key) : (s.push w h).key k = s.key k := rfl
@[simp] theorem pop_key (k : Key) : (s.pop).key k = s.key k := rfl

end Sys2Proof.Machine.State
end

