-- ==== Sys2Proof/Laws/Memory.lean ====
section
/-! SUPPORT. Memory as data: a read after a write, the canonical form, and that equal reads are equal lists
(spec/20_memory.md R43, R44, R57). -/

namespace Sys2Proof.Machine

theorem Memory.wfFrom_mono {lo lo' : Nat} (h : lo' ≤ lo) : ∀ {m : Memory}, Memory.wfFrom lo m = true → Memory.wfFrom lo' m = true
  | [], _ => rfl
  | (a, x) :: m, hm => by
    simp only [Memory.wfFrom, Bool.and_eq_true, decide_eq_true_eq] at hm ⊢
    exact ⟨⟨⟨by omega, hm.1.1.2⟩, hm.1.2⟩, hm.2⟩

theorem Memory.wfFrom_cons {lo a : Nat} {x : Byte} {m : Memory} :
    Memory.wfFrom lo ((a, x) :: m) = true ↔
      lo ≤ a ∧ a < 4096 ∧ x ≠ Memory.unlisted a ∧ Memory.wfFrom (a + 1) m = true := by
  simp only [Memory.wfFrom, Bool.and_eq_true, decide_eq_true_eq, and_assoc]
  exact Iff.rfl

/-- Below the first listed address memory reads as unlisted. -/
theorem Memory.read_below {lo a : Nat} (h : a < lo) : ∀ {m : Memory}, Memory.wfFrom lo m = true → m.read a = Memory.unlisted a
  | [], _ => rfl
  | (b, x) :: m, hm => by
    rw [Memory.wfFrom_cons] at hm
    simp [Memory.read, show a < b by omega]

/-- Above the address space memory reads as unlisted. -/
theorem Memory.read_above {a : Nat} (h : 4096 ≤ a) :
    ∀ {lo : Nat} {m : Memory}, Memory.wfFrom lo m = true → m.read a = Memory.unlisted a
  | _, [], _ => rfl
  | lo, (b, x) :: m, hm => by
    rw [Memory.wfFrom_cons] at hm
    have : ¬ a < b := by omega
    have : ¬ a = b := by omega
    simp [Memory.read, *, Memory.read_above h hm.2.2.2]

theorem Memory.wfFrom_write {a : Nat} (ha : a < 4096) (x : Byte) :
    ∀ {lo : Nat} {m : Memory}, lo ≤ a → Memory.wfFrom lo m = true → Memory.wfFrom lo (m.write a x) = true
  | lo, [], hlo, _ => by
    by_cases hx : x = Memory.unlisted a
    · simp [Memory.write, hx, Memory.wfFrom]
    · simp [Memory.write, hx, Memory.wfFrom, hlo, ha]
  | lo, (b, w) :: m, hlo, hm => by
    have hm' := hm
    rw [Memory.wfFrom_cons] at hm
    obtain ⟨h1, h2, h3, h4⟩ := hm
    simp only [Memory.write]
    split
    · split
      · exact hm'
      · rw [Memory.wfFrom_cons, Memory.wfFrom_cons]
        exact ⟨hlo, ha, ‹_›, by omega, h2, h3, h4⟩
    · split
      · subst b
        split
        · exact Memory.wfFrom_mono (by omega) h4
        · rw [Memory.wfFrom_cons]
          exact ⟨hlo, ha, ‹_›, h4⟩
      · rw [Memory.wfFrom_cons]
        exact ⟨h1, h2, h3, Memory.wfFrom_write ha x (by omega) h4⟩

/-- A write in the address space keeps the canonical form. -/
theorem Memory.wf_write {m : Memory} {a : Nat} (ha : a < 4096) (x : Byte) (hm : m.wf = true) : (m.write a x).wf = true :=
  Memory.wfFrom_write ha x (Nat.zero_le a) hm

theorem Memory.wf_writeBytes : ∀ {bs : List Byte} {m : Memory} {a : Nat}, a + bs.length ≤ 4096 → m.wf = true →
    (m.writeBytes a bs).wf = true
  | [], _, _, _, hm => hm
  | b :: bs, m, a, h, hm => by
    simp only [List.length_cons] at h
    exact Memory.wf_writeBytes (m := m.write a b) (by omega) (Memory.wf_write (by omega) b hm)

theorem Memory.wf_fill (f : Nat → Byte) : ∀ {n : Nat}, n ≤ 4096 → (Memory.fill f n).wf = true
  | 0, _ => rfl
  | n + 1, h => Memory.wf_write (by omega) _ (Memory.wf_fill f (by omega))

theorem Memory.wfFrom_read_write {a : Nat} (x : Byte) :
    ∀ {lo : Nat} {m : Memory}, Memory.wfFrom lo m = true → ∀ b, (m.write a x).read b = if b = a then x else m.read b
  | lo, [], _, b => by
    simp only [Memory.write]
    split <;> rename_i hx
    · split <;> simp_all [Memory.read]
    · simp only [Memory.read]
      split <;> rename_i h1
      · simp [show b ≠ a by omega]
      · split <;> simp_all
  | lo, (c, w) :: m, hm, b => by
    rw [Memory.wfFrom_cons] at hm
    obtain ⟨h1, h2, h3, h4⟩ := hm
    simp only [Memory.write]
    split <;> rename_i hac
    · split <;> rename_i hx
      · split
        · subst b; simp [Memory.read, hac, hx]
        · rfl
      · simp only [Memory.read]
        rcases Nat.lt_trichotomy b a with hb | hb | hb
        · simp [hb, show b ≠ a by omega, show b < c by omega]
        · simp [hb]
        · simp [show ¬ b < a by omega, show b ≠ a by omega]
    · split <;> rename_i hac'
      · subst c
        rcases Nat.lt_trichotomy b a with hb | hb | hb
        · split <;> simp [Memory.read, hb, show b ≠ a by omega, Memory.read_below (show b < a + 1 by omega) h4]
        · subst b
          split
          · simp [Memory.read_below (show a < a + 1 by omega) h4, *]
          · simp [Memory.read]
        · split <;> simp [Memory.read, show ¬ b < a by omega, show b ≠ a by omega]
      · have ih := Memory.wfFrom_read_write (a := a) x h4 b
        simp only [Memory.read, ih]
        split <;> split <;> first | rfl | omega | (split <;> first | rfl | omega)

/-- A read after a write: the byte written at that address, the old byte everywhere else. -/
theorem Memory.read_write {m : Memory} (hm : m.wf = true) (a : Nat) (x : Byte) (b : Nat) :
    (m.write a x).read b = if b = a then x else m.read b :=
  Memory.wfFrom_read_write x hm b

/-- Consecutive writes: the byte of the list where it lies, the old byte everywhere else. -/
theorem Memory.read_writeBytes : ∀ {bs : List Byte} {m : Memory} {a : Nat}, a + bs.length ≤ 4096 → m.wf = true → ∀ b,
    (m.writeBytes a bs).read b = if a ≤ b ∧ b < a + bs.length then bs[b - a]?.getD 0 else m.read b
  | [], m, a, _, _, b => by simp [Memory.writeBytes]
  | x :: bs, m, a, h, hm, b => by
    simp only [List.length_cons] at h ⊢
    have hw := Memory.wf_write (show a < 4096 by omega) x hm
    rw [Memory.writeBytes, Memory.read_writeBytes (by omega) hw, Memory.read_write hm]
    rcases Nat.lt_trichotomy b a with hb | hb | hb
    · simp [show ¬ (a + 1 ≤ b) by omega, show ¬ a ≤ b by omega, show b ≠ a by omega]
    · subst hb; simp
    · by_cases hc : b < a + (bs.length + 1)
      · have : b - a = (b - (a + 1)) + 1 := by omega
        simp only [this, List.getElem?_cons_succ]
        simp [show a + 1 ≤ b by omega, show b < a + 1 + bs.length by omega, show a ≤ b by omega, hc]
      · simp [show ¬ b < a + 1 + bs.length by omega, hc, show b ≠ a by omega]

/-- Inside a block of writes. -/
theorem Memory.read_writeBytes_inside {bs : List Byte} {m : Memory} {a k : Nat} (h : a + bs.length ≤ 4096) (hm : m.wf = true)
    (hk : k < bs.length) : (m.writeBytes a bs).read (a + k) = bs[k] := by
  rw [Memory.read_writeBytes h hm, if_pos (by omega), Nat.add_sub_cancel_left, List.getElem?_eq_getElem hk]; rfl

/-- Outside a block of writes. -/
theorem Memory.read_writeBytes_outside {bs : List Byte} {m : Memory} {a b : Nat} (h : a + bs.length ≤ 4096) (hm : m.wf = true)
    (hb : ¬ (a ≤ b ∧ b < a + bs.length)) : (m.writeBytes a bs).read b = m.read b := by
  rw [Memory.read_writeBytes h hm, if_neg hb]

/-- Canonical memories that read alike from `lo` on are the same list. -/
theorem Memory.wfFrom_ext : ∀ {m m' : Memory} {lo : Nat}, Memory.wfFrom lo m = true → Memory.wfFrom lo m' = true →
    (∀ a, m.read a = m'.read a) → m = m'
  | [], [], _, _, _, _ => rfl
  | [], (b, x) :: m', lo, _, h', h => by
    rw [Memory.wfFrom_cons] at h'
    have := h b
    simp [Memory.read] at this
    exact absurd this.symm h'.2.2.1
  | (b, x) :: m, [], lo, h', _, h => by
    rw [Memory.wfFrom_cons] at h'
    have := h b
    simp [Memory.read] at this
    exact absurd this h'.2.2.1
  | (b, x) :: m, (c, y) :: m', lo, h1, h2, h => by
    rw [Memory.wfFrom_cons] at h1 h2
    have hbc : b = c := by
      rcases Nat.lt_trichotomy b c with hb | hb | hb
      · have := h b; simp [Memory.read, hb] at this; exact absurd this h1.2.2.1
      · exact hb
      · have := h c; simp [Memory.read, hb] at this; exact absurd this.symm h2.2.2.1
    subst hbc
    have hxy : x = y := by have := h b; simpa [Memory.read] using this
    subst hxy
    have : m = m' := Memory.wfFrom_ext h1.2.2.2 h2.2.2.2 fun a => by
      rcases Nat.lt_trichotomy a b with ha | ha | ha
      · rw [Memory.read_below (show a < b + 1 by omega) h1.2.2.2, Memory.read_below (show a < b + 1 by omega) h2.2.2.2]
      · subst ha
        rw [Memory.read_below (Nat.lt_succ_self a) h1.2.2.2, Memory.read_below (Nat.lt_succ_self a) h2.2.2.2]
      · have := h a
        simpa [Memory.read, show ¬ a < b by omega, show a ≠ b by omega] using this
    rw [this]

/-- After a fatal error memory is in canonical form, whatever its bytes. -/
theorem State.raiseFatal_wf (s : State) (k : FatalKind) : (s.raiseFatal k).mem.wf = true := by
  have h := Memory.wf_fill (Config.fatalMem s.draws) (n := Config.memSize) (by simp)
  simpa only [State.raiseFatal] using h

end Sys2Proof.Machine
end

