-- ==== Sys2Proof/Laws/Access.lean ====
section
/-! SUPPORT. What the shared operations can do: byte accesses, blocks of bytes, the fetch, register blocks, the ending of an
instruction (spec/20_memory.md R43 to R46, R54; spec/42_index_memory.md R115, R116). -/

namespace Sys2Proof.Machine

namespace State

variable {s t : State} {a : Nat}

theorem memRead_ok (h : a < 4096) : s.memRead a = .ok (s.mem.read a) := by simp [memRead, h]

theorem memRead_error (h : ¬ a < 4096) : s.memRead a = .error .addressOutOfRange := by simp [memRead, h]

theorem memWrite_ok (h : a < 4096) (x : Byte) : s.memWrite a x = .ok (s.setMem (s.mem.write a x)) := by simp [memWrite, h]

theorem memWrite_error (h : ¬ a < 4096) (x : Byte) : s.memWrite a x = .error .addressOutOfRange := by simp [memWrite, h]

/-- The bytes of a block that lies in the address space. -/
theorem loadBytes_ok : ∀ {n a : Nat}, n = 0 ∨ a + n ≤ 4096 →
    s.loadBytes a n = .ok ((List.range n).map fun k => s.mem.read (a + k))
  | 0, _, _ => by simp [loadBytes]
  | n + 1, a, h => by
    have h' : a < 4096 := by omega
    simp only [loadBytes, memRead_ok h', loadBytes_ok (n := n) (a := a + 1) (by omega), List.range_succ_eq_map,
      List.map_cons, List.map_map, Nat.add_zero, Function.comp_def]
    simp only [Except.ok.injEq, List.cons.injEq, true_and]
    exact List.map_congr_left fun k _ => by rw [Nat.succ_eq_add_one]; congr 1; omega

/-- A block that leaves the address space raises. -/
theorem loadBytes_error : ∀ {n a : Nat}, n ≠ 0 → 4096 < a + n → s.loadBytes a n = .error .addressOutOfRange
  | n + 1, a, _, h => by
    by_cases h' : a < 4096
    · have hn : n ≠ 0 := by omega
      simp only [loadBytes, memRead_ok h', loadBytes_error (a := a + 1) hn (by omega)]
    · simp only [loadBytes, memRead_error h']

/-- A block of writes that lies in the address space changes the memory alone. -/
theorem storeBytes_ok : ∀ {bs : List Byte} {s : State} {a : Nat}, bs = [] ∨ a + bs.length ≤ 4096 →
    s.storeBytes a bs = .ok (s.setMem (s.mem.writeBytes a bs))
  | [], _, _, _ => rfl
  | b :: bs, s, a, h => by
    simp only [reduceCtorEq, List.length_cons, false_or] at h
    simp only [storeBytes, memWrite_ok (show a < 4096 by omega) b]
    rw [storeBytes_ok (by omega)]
    rfl

/-- A block of writes that leaves the address space raises. -/
theorem storeBytes_error : ∀ {bs : List Byte} {s : State} {a : Nat}, bs ≠ [] → 4096 < a + bs.length →
    s.storeBytes a bs = .error .addressOutOfRange
  | b :: bs, s, a, _, h => by
    simp only [List.length_cons] at h
    by_cases h' : a < 4096
    · have hn : bs ≠ [] := by rintro rfl; simp at h; omega
      simp only [storeBytes, memWrite_ok h' b]
      exact storeBytes_error hn (by omega)
    · simp only [storeBytes, memWrite_error h']

/-- The fetch where both bytes exist: big-endian. -/
theorem fetch_ok (h : s.pc.toNat + 1 < 4096) :
    s.fetch = .ok (wordOfBytes (s.mem.read s.pc.toNat) (s.mem.read (s.pc.toNat + 1))) := by
  simp [fetch, memRead_ok (show s.pc.toNat < 4096 by omega), memRead_ok h]

/-- The fetch where a byte does not exist. -/
theorem fetch_error (h : ¬ s.pc.toNat + 1 < 4096) : s.fetch = .error .addressOutOfRange := by
  by_cases h' : s.pc.toNat < 4096
  · simp [fetch, memRead_ok h', memRead_error h]
  · simp [fetch, memRead_error h']

/-- A fetch that succeeds is from 0 to 4094. -/
theorem pc_of_fetch_ok {op : Word} (h : s.fetch = .ok op) : s.pc.toNat + 1 < 4096 := by
  by_contra hc
  rw [fetch_error hc] at h
  cases h

/-- The fetch reads the program counter and the memory alone. -/
theorem fetch_congr (hp : t.pc = s.pc) (hm : t.mem = s.mem) : t.fetch = s.fetch := by
  simp only [fetch, memRead, hp, hm]

theorem settle_ok (t : State) : s.settle (.ok t) = .next t := rfl

theorem settle_error (k : FatalKind) : s.settle (.error k) = .next (s.raiseFatal k) := rfl

theorem length_regBlock (x : Reg) : (s.regBlock x).length = x.val + 1 := by
  have := x.isLt
  simp [regBlock]

theorem getElem?_regBlock (x z : Reg) (h : z ≤ x) : (s.regBlock x)[z.val]? = some (s.reg z) := by
  have hz : z.val < x.val + 1 := Nat.lt_succ_of_le h
  simp only [regBlock, List.getElem?_take, hz, if_true]
  simp [reg_def]

end State

theorem length_bcdDigits (b : Byte) : (bcdDigits b).length = 3 := rfl

/-- Register `z` after a block was written from register `k` on. -/
theorem putRegs_get : ∀ (bs : List Byte) (v : Vector Byte 16) (k : Nat) (z : Reg),
    (putRegs v k bs)[z.val] = if k ≤ z.val ∧ z.val < k + bs.length then bs[z.val - k]?.getD 0 else v[z.val]
  | [], v, k, z => by simp [putRegs]
  | b :: bs, v, k, z => by
    have hz := z.isLt
    rw [putRegs, putRegs_get bs, Vector.getElem_setIfInBounds, List.length_cons]
    rcases Nat.lt_trichotomy z.val k with h | h | h
    · simp [show ¬ (k + 1 ≤ z.val) by omega, show ¬ k ≤ z.val by omega, show k ≠ z.val by omega]
    · simp [h]
    · by_cases hc : z.val < k + (bs.length + 1)
      · have hs : z.val - k = (z.val - (k + 1)) + 1 := by omega
        rw [hs, List.getElem?_cons_succ]
        simp [show k + 1 ≤ z.val by omega, show z.val < k + 1 + bs.length by omega, show k ≤ z.val by omega, hc]
      · simp [show ¬ z.val < k + 1 + bs.length by omega, hc, show k ≠ z.val by omega]

end Sys2Proof.Machine
end

