-- ==== Sys2Proof/Laws/Decode.lean ====
section
/-! SUPPORT. The fields of a word that the encoder packed, and its row of the opcode map (spec/30_encoding.md R64 to R67). -/

namespace Sys2Proof

/-! Two words are equal when their 16 bits are. -/

theorem fieldG_packFA (g : BitVec 4) (nnn : Addr) : fieldG (packFA g nnn) = g := by
  apply BitVec.eq_of_getLsbD_eq; intro i hi
  simp only [fieldG, packFA, BitVec.getLsbD_extractLsb', BitVec.getLsbD_append, hi, decide_true, Bool.true_and]
  simp [show ¬ 12 + i < 12 by omega]

theorem fieldNNN_packFA (g : BitVec 4) (nnn : Addr) : fieldNNN (packFA g nnn) = nnn := by
  apply BitVec.eq_of_getLsbD_eq; intro i hi
  simp only [fieldNNN, packFA, BitVec.getLsbD_extractLsb', BitVec.getLsbD_append, hi, decide_true, Bool.true_and, Nat.zero_add]
  simp [hi]

theorem fieldG_packFXI (g : BitVec 4) (x : Reg) (nn : Byte) : fieldG (packFXI g x nn) = g := by
  apply BitVec.eq_of_getLsbD_eq; intro i hi
  simp only [fieldG, packFXI, BitVec.getLsbD_extractLsb', BitVec.getLsbD_append, hi, decide_true, Bool.true_and]
  simp [show ¬ 12 + i < 4 + 8 by omega]

theorem fieldX_packFXI (g : BitVec 4) (x : Reg) (nn : Byte) : fieldX (packFXI g x nn) = x := by
  have h : (packFXI g x nn).extractLsb' 8 4 = BitVec.ofFin (w := 4) x := by
    apply BitVec.eq_of_getLsbD_eq; intro i hi
    simp only [packFXI, BitVec.getLsbD_extractLsb', BitVec.getLsbD_append, hi, decide_true, Bool.true_and]
    simp [show ¬ 8 + i < 8 by omega, show 8 + i < 4 + 8 by omega]
  rw [fieldX, h]

theorem fieldNN_packFXI (g : BitVec 4) (x : Reg) (nn : Byte) : fieldNN (packFXI g x nn) = nn := by
  apply BitVec.eq_of_getLsbD_eq; intro i hi
  simp only [fieldNN, packFXI, BitVec.getLsbD_extractLsb', BitVec.getLsbD_append, hi, decide_true, Bool.true_and, Nat.zero_add]
  simp [hi, show i < 4 + 8 by omega]

theorem fieldG_packFXYN (g : BitVec 4) (x y : Reg) (n : BitVec 4) : fieldG (packFXYN g x y n) = g := by
  apply BitVec.eq_of_getLsbD_eq; intro i hi
  simp only [fieldG, packFXYN, BitVec.getLsbD_extractLsb', BitVec.getLsbD_append, hi, decide_true, Bool.true_and]
  simp [show ¬ 12 + i < 4 + (4 + 4) by omega]

theorem fieldX_packFXYN (g : BitVec 4) (x y : Reg) (n : BitVec 4) : fieldX (packFXYN g x y n) = x := by
  have h : (packFXYN g x y n).extractLsb' 8 4 = BitVec.ofFin (w := 4) x := by
    apply BitVec.eq_of_getLsbD_eq; intro i hi
    simp only [packFXYN, BitVec.getLsbD_extractLsb', BitVec.getLsbD_append, hi, decide_true, Bool.true_and]
    simp [show ¬ 8 + i < 4 + 4 by omega, show 8 + i < 4 + (4 + 4) by omega]
  rw [fieldX, h]

theorem fieldY_packFXYN (g : BitVec 4) (x y : Reg) (n : BitVec 4) : fieldY (packFXYN g x y n) = y := by
  have h : (packFXYN g x y n).extractLsb' 4 4 = BitVec.ofFin (w := 4) y := by
    apply BitVec.eq_of_getLsbD_eq; intro i hi
    simp only [packFXYN, BitVec.getLsbD_extractLsb', BitVec.getLsbD_append, hi, decide_true, Bool.true_and]
    simp [show ¬ 4 + i < 4 by omega, show 4 + i < 4 + 4 by omega, show 4 + i < 4 + (4 + 4) by omega]
  rw [fieldY, h]

theorem fieldN_packFXYN (g : BitVec 4) (x y : Reg) (n : BitVec 4) : fieldN (packFXYN g x y n) = n := by
  apply BitVec.eq_of_getLsbD_eq; intro i hi
  simp only [fieldN, packFXYN, BitVec.getLsbD_extractLsb', BitVec.getLsbD_append, hi, decide_true, Bool.true_and, Nat.zero_add]
  simp [hi, show i < 4 + 4 by omega, show i < 4 + (4 + 4) by omega]

/-! The packs give back the word their fields come from. -/

theorem packFA_fields (op : Word) : packFA (fieldG op) (fieldNNN op) = op := by
  apply BitVec.eq_of_getLsbD_eq; intro i hi
  simp only [packFA, fieldG, fieldNNN, BitVec.getLsbD_append, BitVec.getLsbD_extractLsb']
  by_cases h : i < 12
  · simp [h]
  · simp [h, show i - 12 < 4 by omega, show 12 + (i - 12) = i by omega]

theorem packFXI_fields (op : Word) : packFXI (fieldG op) (fieldX op) (fieldNN op) = op := by
  apply BitVec.eq_of_getLsbD_eq; intro i hi
  simp only [packFXI, fieldG, fieldX, fieldNN, BitVec.ofFin_toFin, BitVec.getLsbD_append, BitVec.getLsbD_extractLsb']
  by_cases h : i < 8
  · simp [h, show i < 4 + 8 by omega]
  · by_cases h' : i < 12
    · simp [h, h', show i - 8 < 4 by omega, show 8 + (i - 8) = i by omega]
    · simp [h', show i - 12 < 4 by omega, show 12 + (i - 12) = i by omega]

theorem packFXYN_fields (op : Word) : packFXYN (fieldG op) (fieldX op) (fieldY op) (fieldN op) = op := by
  apply BitVec.eq_of_getLsbD_eq; intro i hi
  simp only [packFXYN, fieldG, fieldX, fieldY, fieldN, BitVec.ofFin_toFin, BitVec.getLsbD_append, BitVec.getLsbD_extractLsb']
  by_cases h : i < 4
  · simp [h, show i < 4 + 4 by omega, show i < 4 + (4 + 4) by omega]
  · by_cases h' : i < 8
    · simp [h, h', show i < 12 by omega, show i - 4 < 4 by omega, show 4 + (i - 4) = i by omega]
    · by_cases h'' : i < 12
      · simp [h', h'', show i - 8 < 4 by omega, show 8 + (i - 8) = i by omega]
      · simp [h'', show i - 12 < 4 by omega, show 12 + (i - 12) = i by omega]

/-! Masking a packed word with the mask of its format leaves the fixed digits. -/

theorem packFA_mask (g : BitVec 4) (nnn : Addr) : packFA g nnn &&& 0xF000 = packFA g 0 := by
  apply BitVec.eq_of_getLsbD_eq; intro i hi
  simp only [packFA, BitVec.getLsbD_and, BitVec.getLsbD_append]
  interval_cases i <;> simp

theorem packFXI_mask (g : BitVec 4) (x : Reg) (nn : Byte) : packFXI g x nn &&& 0xF000 = packFA g 0 := by
  apply BitVec.eq_of_getLsbD_eq; intro i hi
  simp only [packFXI, packFA, BitVec.getLsbD_and, BitVec.getLsbD_append]
  interval_cases i <;> simp

theorem packFXI_maskLow (g : BitVec 4) (x : Reg) (nn : Byte) : packFXI g x nn &&& 0xF0FF = packFXI g 0 nn := by
  apply BitVec.eq_of_getLsbD_eq; intro i hi
  simp only [packFXI, BitVec.getLsbD_and, BitVec.getLsbD_append]
  interval_cases i <;> simp

theorem packFXYN_mask (g : BitVec 4) (x y : Reg) (n : BitVec 4) : packFXYN g x y n &&& 0xF000 = packFA g 0 := by
  apply BitVec.eq_of_getLsbD_eq; intro i hi
  simp only [packFXYN, packFA, BitVec.getLsbD_and, BitVec.getLsbD_append]
  interval_cases i <;> simp

theorem packFXYN_maskLow (g : BitVec 4) (x y : Reg) (n : BitVec 4) : packFXYN g x y n &&& 0xF00F = packFXYN g 0 0 n := by
  apply BitVec.eq_of_getLsbD_eq; intro i hi
  simp only [packFXYN, BitVec.getLsbD_and, BitVec.getLsbD_append]
  interval_cases i <;> simp

/-- The two bytes of a word make the word again. -/
theorem wordOfBytes_split (op : Word) : wordOfBytes (highByte op) (lowByte op) = op := by
  apply BitVec.eq_of_getLsbD_eq; intro i hi
  simp only [wordOfBytes, highByte, lowByte, BitVec.getLsbD_append, BitVec.getLsbD_extractLsb']
  by_cases h : i < 8
  · simp [h]
  · simp [h, show i - 8 < 8 by omega, show 8 + (i - 8) = i by omega]

/-- The value of a word is 256 times its high byte plus its low byte (R46). -/
theorem toNat_wordOfBytes (hi lo : Byte) : (wordOfBytes hi lo).toNat = hi.toNat * 256 + lo.toNat := by
  have := lo.isLt
  rw [wordOfBytes, BitVec.toNat_append, ← Nat.shiftLeft_add_eq_or_of_lt lo.isLt, Nat.shiftLeft_eq]

end Sys2Proof
end

