-- ==== Sys2Proof/Laws/Display.lean ====
section
/-! SUPPORT. The pixels after flips (spec/43_display.md R121 to R123): each pixel of a list without repeats is flipped once,
and a collision is a listed pixel that was on. -/

namespace Sys2Proof.Machine

theorem Display.pixel_def (p : Display) (x : Fin 64) (y : Fin 32) : p.pixel x y = p[x.val][y.val] := rfl

@[simp] theorem Display.pixel_blank (x : Fin 64) (y : Fin 32) : Display.blank.pixel x y = false := by
  rw [Display.pixel_def, Display.blank, Vector.getElem_replicate, Vector.getElem_replicate]

theorem Display.pixel_flip (p : Display) (x x' : Fin 64) (y y' : Fin 32) :
    (p.flip x y).pixel x' y' = if x' = x ∧ y' = y then !(p.pixel x y) else p.pixel x' y' := by
  simp only [Display.pixel_def, Display.flip, Vector.getElem_set, Fin.ext_iff, Vector.get_eq_getElem]
  by_cases hx : x'.val = x.val
  · by_cases hy : y'.val = y.val
    · simp [hx, hy]
    · simp [hx, hy, Ne.symm hy]
  · simp [hx, Ne.symm hx]

/-- Displays that agree pixel by pixel are equal. -/
theorem Display.ext_pixel {p q : Display} (h : ∀ x y, p.pixel x y = q.pixel x y) : p = q := by
  apply Vector.ext; intro x hx
  apply Vector.ext; intro y hy
  exact h ⟨x, hx⟩ ⟨y, hy⟩

/-- After the flips of a list without repeats. -/
theorem Display.xorAll_pixel : ∀ {qs : List (Fin 64 × Fin 32)} (p : Display), qs.Nodup → ∀ x y,
    (p.xorAll qs).1.pixel x y = ((p.pixel x y) ^^ decide ((x, y) ∈ qs))
  | [], p, _, x, y => by simp [Display.xorAll]
  | q :: qs, p, h, x, y => by
    obtain ⟨hq, hqs⟩ := List.nodup_cons.1 h
    simp only [Display.xorAll, Display.xorAll_pixel _ hqs, Display.pixel_flip, List.mem_cons]
    by_cases e : (x, y) = q
    · subst e; simp [hq]
    · have : ¬ (x = q.1 ∧ y = q.2) := fun h => e (Prod.ext h.1 h.2)
      simp [this, e]

/-- The collision of a list without repeats: some listed pixel was on. -/
theorem Display.xorAll_hit : ∀ {qs : List (Fin 64 × Fin 32)} (p : Display), qs.Nodup →
    ((p.xorAll qs).2 = true ↔ ∃ q ∈ qs, p.pixel q.1 q.2 = true)
  | [], p, _ => by simp [Display.xorAll]
  | q :: qs, p, h => by
    obtain ⟨hq, hqs⟩ := List.nodup_cons.1 h
    simp only [Display.xorAll, Bool.or_eq_true, Display.xorAll_hit _ hqs, Display.pixel_flip, List.mem_cons, exists_eq_or_imp]
    refine or_congr Iff.rfl (exists_congr fun r => and_congr_right fun hr => ?_)
    have : ¬ (r.1 = q.1 ∧ r.2 = q.2) := fun h => hq (by rwa [← Prod.ext h.1 h.2])
    simp [this]

theorem mem_rowPixels {vx vy : Byte} {row : Nat} {b : Byte} {q : Fin 64 × Fin 32} :
    q ∈ rowPixels vx vy row b ↔ ∃ col < 8, spriteBit b col = true ∧ q = (pixelX vx col, pixelY vy row) := by
  simp only [rowPixels, List.mem_map, List.mem_filter, List.mem_range, and_assoc, @eq_comm _ q]

theorem mem_spritePixels {vx vy : Byte} {q : Fin 64 × Fin 32} : ∀ {bs : List Byte} {row : Nat},
    q ∈ spritePixels vx vy row bs ↔ ∃ k, ∃ h : k < bs.length, ∃ col < 8, spriteBit bs[k] col = true ∧
      q = (pixelX vx col, pixelY vy (row + k))
  | [], row => by simp [spritePixels]
  | b :: bs, row => by
    simp only [spritePixels, List.mem_append, mem_rowPixels, mem_spritePixels (bs := bs)]
    constructor
    · rintro (⟨c, hc, h1, h2⟩ | ⟨k, hk, c, hc, h1, h2⟩)
      · exact ⟨0, by simp, c, hc, h1, h2⟩
      · exact ⟨k + 1, by simpa using hk, c, hc, by simpa using h1, by rw [h2, Nat.add_right_comm, Nat.add_assoc]⟩
    · rintro ⟨k, hk, c, hc, h1, h2⟩
      rcases k with - | k
      · exact .inl ⟨c, hc, h1, h2⟩
      · refine .inr ⟨k, by simpa using hk, c, hc, by simpa using h1, ?_⟩
        rw [h2, Nat.add_right_comm, Nat.add_assoc]

theorem pixelX_inj {vx : Byte} {c d : Nat} (hc : c < 64) (hd : d < 64) (h : pixelX vx c = pixelX vx d) : c = d := by
  have := congrArg Fin.val h
  simp only [pixelX, Fin.val_ofNat] at this
  omega

theorem pixelY_inj {vy : Byte} {r q : Nat} (h : pixelY vy r = pixelY vy q) (hr : r < q + 32) (hq : q < r + 32) : r = q := by
  have := congrArg Fin.val h
  simp only [pixelY, Fin.val_ofNat] at this
  omega

theorem nodup_rowPixels (vx vy : Byte) (row : Nat) (b : Byte) : (rowPixels vx vy row b).Nodup := by
  refine List.Nodup.map_on ?_ (List.Nodup.filter _ List.nodup_range)
  intro c hc d hd h
  simp only [List.mem_filter, List.mem_range] at hc hd
  exact pixelX_inj (by omega) (by omega) (congrArg Prod.fst h)

/-- Within one sprite of at most 32 rows no pixel is touched twice (R121). -/
theorem nodup_spritePixels (vx vy : Byte) : ∀ {bs : List Byte} (row : Nat), bs.length ≤ 32 → (spritePixels vx vy row bs).Nodup
  | [], _, _ => List.nodup_nil
  | b :: bs, row, h => by
    simp only [List.length_cons] at h
    refine List.Nodup.append (nodup_rowPixels vx vy row b) (nodup_spritePixels vx vy _ (by omega)) ?_
    intro q h1 h2
    obtain ⟨c, -, -, hq⟩ := mem_rowPixels.1 h1
    obtain ⟨k, hk, d, -, -, hq'⟩ := mem_spritePixels.1 h2
    have := pixelY_inj (congrArg Prod.snd (hq.symm.trans hq')) (by omega) (by omega)
    omega

end Sys2Proof.Machine
end

