-- ==== Sys2Proof/Laws/Exec.lean ====
section
/-! SUPPORT. What the instructions over shared operations answer, in closed form: the memory transfers, the sprite draw, the
call stack; and the cases of a Step. -/

namespace Sys2Proof.Machine

variable {s t : State}

/-! ## Memory transfers (R114 to R116) -/

theorem execLdBcd_ok (x : Reg) (h : s.i.toNat ≤ 4093) :
    execLdBcd x s = .next (s.advance.setMem (s.mem.writeBytes s.i.toNat (bcdDigits (s.reg x)))) := by
  rw [execLdBcd, State.storeBytes_ok (.inr (by simp [State.base, length_bcdDigits]; omega))]
  rfl

theorem execLdBcd_error (x : Reg) (h : 4093 < s.i.toNat) : execLdBcd x s = .next (s.raiseFatal .addressOutOfRange) := by
  rw [execLdBcd, State.storeBytes_error (by simp [bcdDigits]) (by simp [State.base, length_bcdDigits]; omega)]
  rfl

theorem execStRegs_ok (x : Reg) (h : s.i.toNat + x.val ≤ 4095) :
    execStRegs x s = .next (s.advance.setMem (s.mem.writeBytes s.i.toNat (s.regBlock x))) := by
  rw [execStRegs, State.storeBytes_ok (.inr (by simp [State.base, State.length_regBlock]; omega))]
  rfl

theorem execStRegs_error (x : Reg) (h : 4095 < s.i.toNat + x.val) :
    execStRegs x s = .next (s.raiseFatal .addressOutOfRange) := by
  have hl := State.length_regBlock (s := s) x
  rw [execStRegs, State.storeBytes_error (by intro hc; simp [hc] at hl) (by simp [State.base, hl]; omega)]
  rfl

theorem execLdRegs_ok (x : Reg) (h : s.i.toNat + x.val ≤ 4095) :
    execLdRegs x s = .next
      (s.setV (putRegs s.v 0 ((List.range (x.val + 1)).map fun k => s.mem.read (s.i.toNat + k)))).advance := by
  rw [execLdRegs, State.loadBytes_ok (.inr (by simp [State.base]; omega))]
  rfl

theorem execLdRegs_error (x : Reg) (h : 4095 < s.i.toNat + x.val) :
    execLdRegs x s = .next (s.raiseFatal .addressOutOfRange) := by
  rw [execLdRegs, State.loadBytes_error (by omega) (by simp [State.base]; omega)]

/-- A register after LD_REGS. -/
theorem putRegs_block (v : Vector Byte 16) (f : Nat → Byte) (x z : Reg) :
    (putRegs v 0 ((List.range (x.val + 1)).map f))[z.val] = if z ≤ x then f z.val else v[z.val] := by
  rw [putRegs_get]
  by_cases h : z ≤ x
  · have hz : z.val < x.val + 1 := Nat.lt_succ_of_le h
    simp [h, hz]
  · have hz : ¬ z.val < x.val + 1 := fun hc => h (Nat.le_of_lt_succ hc)
    simp [h, hz]

/-! ## The sprite draw (R121) -/

/-- The bytes of a sprite of `n` rows at I. -/
def State.spriteBytes (s : State) (n : Nat) : List Byte := (List.range n).map fun k => s.mem.read (s.i.toNat + k)

/-- The pixels under the set bits of that sprite drawn at (V[X], V[Y]). -/
def State.spriteAt (s : State) (x y : Reg) (n : Nat) : List (Fin 64 × Fin 32) :=
  spritePixels (s.reg x) (s.reg y) 0 (s.spriteBytes n)

theorem execDrw_ok (x y : Reg) {n : Nat} (h : n = 0 ∨ s.i.toNat + n ≤ 4096) :
    execDrw x y n s = .next ((s.setPx (s.px.xorAll (s.spriteAt x y n)).1).setReg regF
      (flagByte (s.px.xorAll (s.spriteAt x y n)).2)).advance := by
  rw [execDrw, State.base, State.loadBytes_ok h]
  rfl

theorem execDrw_error (x y : Reg) {n : Nat} (h0 : n ≠ 0) (h : 4096 < s.i.toNat + n) :
    execDrw x y n s = .next (s.raiseFatal .addressOutOfRange) := by
  rw [execDrw, State.base, State.loadBytes_error h0 h]

theorem nodup_spriteAt (x y : Reg) {n : Nat} (h : n ≤ 32) : (s.spriteAt x y n).Nodup :=
  nodup_spritePixels _ _ _ (by simpa [State.spriteBytes] using h)

theorem mem_spriteAt {x y : Reg} {n : Nat} {px : Fin 64} {py : Fin 32} :
    (px, py) ∈ s.spriteAt x y n ↔ ∃ row < n, ∃ col < 8, (s.mem.read (s.i.toNat + row)).getLsbD (7 - col) = true ∧
      px.val = ((s.reg x).toNat + col) % 64 ∧ py.val = ((s.reg y).toNat + row) % 32 := by
  simp only [State.spriteAt, State.spriteBytes, mem_spritePixels, spriteBit, List.length_map, List.length_range,
    List.getElem_map, List.getElem_range, Prod.mk.injEq, pixelX, pixelY, Fin.ext_iff, Fin.val_ofNat, Nat.zero_add, exists_prop]

/-! ## The call stack (R14, R80, R82) -/

theorem execCall_ok (nnn : Addr) (h : s.sp.val < 16) :
    execCall nnn s = .next ((s.push (s.pc + 2) h).setPc (zextAddr nnn)) := by simp [execCall, h]

theorem execCall_error (nnn : Addr) (h : s.sp.val = 16) : execCall nnn s = .next (s.raiseFatal .stackOverflow) := by
  simp [execCall, h]

theorem execRet_ok (h : s.sp.val ≠ 0) : execRet s = .next (s.pop.setPc s.top) := by simp only [execRet, h, if_false]

theorem execRet_error (h : s.sp.val = 0) : execRet s = .next (s.raiseFatal .stackUnderflow) := by
  simp only [execRet, h, if_true]

/-! ## The Step (R71) -/

/-- The phase plays no part in the fetch. -/
@[simp] theorem State.fetch_setPhase (p : Phase) : (s.setPhase p).fetch = s.fetch := rfl

theorem step_halted {k : FatalKind} (h : s.err = some k) : step s = .next s := by simp [step, State.halted, h]

theorem step_fetchError {k : FatalKind} (h : s.err = none) (hf : s.fetch = .error k) :
    step s = .next ((s.setPhase .running).raiseFatal k) := by simp [step, State.halted, h, hf]

theorem step_decoded {op : Word} {i : Instr} (h : s.err = none) (hf : s.fetch = .ok op) (hd : decodeWord op = .ok i) :
    step s = exec i (s.setPhase .running) := by simp [step, State.halted, h, hf, hd]

theorem step_unknown {op : Word} {r : Reject} (h : s.err = none) (hf : s.fetch = .ok op) (hd : decodeWord op = .error r) :
    step s = .next (s.setPhase .running).advance := by simp [step, State.halted, h, hf, hd, State.skipUnknown]

/-- All a Step can do. -/
theorem step_cases (h : step s = .next t) :
    (∃ k, s.err = some k ∧ t = s) ∨
    (∃ k, s.err = none ∧ s.fetch = .error k ∧ t = (s.setPhase .running).raiseFatal k) ∨
    (∃ op i, s.err = none ∧ s.fetch = .ok op ∧ decodeWord op = .ok i ∧ exec i (s.setPhase .running) = .next t) ∨
    (∃ op r, s.err = none ∧ s.fetch = .ok op ∧ decodeWord op = .error r ∧ t = (s.setPhase .running).advance) := by
  cases he : s.err with
  | some k => rw [step_halted he] at h; cases h; exact .inl ⟨k, rfl, rfl⟩
  | none =>
    cases hf : s.fetch with
    | error k => rw [step_fetchError he hf] at h; cases h; exact .inr (.inl ⟨k, rfl, rfl, rfl⟩)
    | ok op =>
      cases hd : decodeWord op with
      | ok i => rw [step_decoded he hf hd] at h; exact .inr (.inr (.inl ⟨op, i, rfl, rfl, hd, h⟩))
      | error r => rw [step_unknown he hf hd] at h; cases h; exact .inr (.inr (.inr ⟨op, r, rfl, rfl, hd, rfl⟩))

end Sys2Proof.Machine
end

