-- ==== Sys2Proof/Laws/Frames.lean ====
section
/-! SUPPORT. Frames and values of the shared updates: what a PC update, a register write and a result-with-flag leave unchanged,
and the numbers that operands and flags stand for. -/

namespace Sys2Proof.Safety

open Sys2Proof.Machine

variable (s : State)

/-- Jumps and skips change PC alone. -/
theorem onlyPc_setPc (w : Word) : onlyPc s (s.setPc w) := by
  simp [onlyPc, sameRegs, sameBeyondRegs, sameMem, sameStack, sameDisplay, sameTimers, sameWait, sameHostSide]

/-- A register write that goes on to the next instruction. -/
theorem onlyRegs_setReg (x : Reg) (b : Byte) : onlyRegs [x] s (s.setReg x b).advance := by
  refine ⟨fun z hz => ?_, rfl, ?_⟩
  · simp only [List.mem_singleton] at hz
    simp [State.reg_setReg_ne, hz]
  · simp [sameBeyondRegs, sameMem, sameStack, sameDisplay, sameTimers, sameWait, sameHostSide]

/-- A result and a flag that go on to the next instruction. -/
theorem onlyRegs_setRegFlag (x : Reg) (b : Byte) (c : Bool) : onlyRegs [x, 15] s (s.setRegFlag x b c).advance := by
  refine ⟨fun z hz => ?_, rfl, ?_⟩
  · simp only [List.mem_cons, List.not_mem_nil, or_false, not_or] at hz
    simp [State.setRegFlag, State.reg_setReg, hz, regF]
  · simp [sameBeyondRegs, sameMem, sameStack, sameDisplay, sameTimers, sameWait, sameHostSide, State.setRegFlag]

/-- The sprite of a statement covers the pixels the draw flips. -/
theorem spriteCovers_iff {x y : Reg} {n : Nat} {px : Fin 64} {py : Fin 32} :
    spriteCovers s x y n px py ↔ (px, py) ∈ s.spriteAt x y n := mem_spriteAt.symm

/-- The invariant speaks of memory, error, wait state, PC, stack and phase alone. -/
theorem Inv_congr {s t : State} (h : Inv s) (hm : t.mem = s.mem) (he : t.err = s.err) (ha : t.awaiting = s.awaiting)
    (hp : t.pc = s.pc) (hs : t.stack = s.stack) (hd : t.sp = s.sp) (hf : t.phase = s.phase) : Inv t := by
  obtain ⟨h1, h2, h3, h4⟩ := h
  refine ⟨hm ▸ h1, fun a b => ?_, fun a => ?_, fun a b => ?_⟩
  · rw [State.fetch_congr hp hm]; exact h2 (he ▸ a) (ha ▸ b)
  · rw [hp, hs, hd]; exact h3 (he ▸ a)
  · rw [hf]; exact h4 (he ▸ a) (ha ▸ b)

/-- A state a fatal error left meets the invariant. -/
theorem Inv_raiseFatal (k : FatalKind) : Inv (s.raiseFatal k) :=
  ⟨State.raiseFatal_wf s k, fun h => absurd h (by simp), fun h => absurd h (by simp), fun h => absurd h (by simp)⟩

end Sys2Proof.Safety

namespace Sys2Proof.Machine

theorem toNat_zextAddr (nnn : Addr) : (zextAddr nnn).toNat = nnn.toNat := by
  have := nnn.isLt
  simp only [zextAddr, BitVec.toNat_setWidth]; omega

theorem toNat_zextByte (b : Byte) : (zextByte b).toNat = b.toNat := by
  have := b.isLt
  simp only [zextByte, BitVec.toNat_setWidth]; omega

theorem toNat_flagByte (c : Bool) : (flagByte c).toNat = if c then 1 else 0 := by cases c <;> rfl

theorem flagByte_zero_or_one (c : Bool) : flagByte c = 0 ∨ flagByte c = 1 := by cases c <;> simp [flagByte]

theorem State.setRegFlag_reg_ne (s : State) {x : Reg} (h : x ≠ 15) (b : Byte) (c : Bool) : (s.setRegFlag x b c).reg x = b := by
  simp [State.setRegFlag, State.reg_setReg, regF, h]

theorem State.setRegFlag_reg_flag (s : State) (x : Reg) (b : Byte) (c : Bool) : (s.setRegFlag x b c).reg 15 = flagByte c := by
  simp [State.setRegFlag, regF]

/-- A counter after a Tick (R158). -/
theorem toNat_countDown (b : Byte) : (countDown b).toNat = b.toNat - 1 := by
  unfold countDown
  split
  · subst b; rfl
  · rename_i h
    have h' : b.toNat ≠ 0 := fun hc => h (BitVec.eq_of_toNat_eq hc)
    have := b.isLt
    rw [BitVec.toNat_sub]; simp; omega

/-- A key after one key was written. -/
theorem get_set_key (v : Vector Bool 16) (k j : Key) (b : Bool) : (v.set k.val b k.isLt).get j = if j = k then b else v.get j := by
  simp only [Vector.get_eq_getElem, Vector.getElem_set, Fin.ext_iff, eq_comm]

end Sys2Proof.Machine
end

