-- ==== Sys2Proof/Laws/PerInstr.lean ====
section
/-! SUPPORT. The families of statements made instruction by instruction. `EncodesInItsRow`: the word of an instruction lies in
the instruction's row of the opcode map, match and mask (spec/30_encoding.md R67). -/

namespace Sys2Proof.Laws.EncodesInItsRow

/-- The encoding of `i` carries every fixed digit of its row of R67. -/
def Statement (i : Instr) : Prop := inRow (encode i) (rowOf i) = true

theorem of_mask {op m k w : Word} (h : op &&& k = w) (hw : w = m) : inRow op (m, k) = true := by
  simp [inRow, h, hw]

theorem cls : Statement .cls := by unfold Statement; decide
theorem ret : Statement .ret := by unfold Statement; decide
theorem jp (nnn : Addr) : Statement (.jp nnn) := of_mask (packFA_mask _ _) (by decide)
theorem call (nnn : Addr) : Statement (.call nnn) := of_mask (packFA_mask _ _) (by decide)
theorem seImm (x : Reg) (nn : Byte) : Statement (.seImm x nn) := of_mask (packFXI_mask _ _ _) (by decide)
theorem sneImm (x : Reg) (nn : Byte) : Statement (.sneImm x nn) := of_mask (packFXI_mask _ _ _) (by decide)
theorem seReg (x y : Reg) : Statement (.seReg x y) := of_mask (packFXYN_maskLow _ _ _ _) (by decide)
theorem ldImm (x : Reg) (nn : Byte) : Statement (.ldImm x nn) := of_mask (packFXI_mask _ _ _) (by decide)
theorem addImm (x : Reg) (nn : Byte) : Statement (.addImm x nn) := of_mask (packFXI_mask _ _ _) (by decide)
theorem ldReg (x y : Reg) : Statement (.ldReg x y) := of_mask (packFXYN_maskLow _ _ _ _) (by decide)
theorem orReg (x y : Reg) : Statement (.orReg x y) := of_mask (packFXYN_maskLow _ _ _ _) (by decide)
theorem andReg (x y : Reg) : Statement (.andReg x y) := of_mask (packFXYN_maskLow _ _ _ _) (by decide)
theorem xorReg (x y : Reg) : Statement (.xorReg x y) := of_mask (packFXYN_maskLow _ _ _ _) (by decide)
theorem addReg (x y : Reg) : Statement (.addReg x y) := of_mask (packFXYN_maskLow _ _ _ _) (by decide)
theorem sub (x y : Reg) : Statement (.sub x y) := of_mask (packFXYN_maskLow _ _ _ _) (by decide)
theorem shr (x y : Reg) : Statement (.shr x y) := of_mask (packFXYN_maskLow _ _ _ _) (by decide)
theorem subn (x y : Reg) : Statement (.subn x y) := of_mask (packFXYN_maskLow _ _ _ _) (by decide)
theorem shl (x y : Reg) : Statement (.shl x y) := of_mask (packFXYN_maskLow _ _ _ _) (by decide)
theorem sneReg (x y : Reg) : Statement (.sneReg x y) := of_mask (packFXYN_maskLow _ _ _ _) (by decide)
theorem ldI (nnn : Addr) : Statement (.ldI nnn) := of_mask (packFA_mask _ _) (by decide)
theorem jpV0 (nnn : Addr) : Statement (.jpV0 nnn) := of_mask (packFA_mask _ _) (by decide)
theorem rnd (x : Reg) (nn : Byte) : Statement (.rnd x nn) := of_mask (packFXI_mask _ _ _) (by decide)
theorem drw (x y : Reg) (n : Nat) : Statement (.drw x y n) := of_mask (packFXYN_mask _ _ _ _) (by decide)
theorem skp (x : Reg) : Statement (.skp x) := of_mask (packFXI_maskLow _ _ _) (by decide)
theorem sknp (x : Reg) : Statement (.sknp x) := of_mask (packFXI_maskLow _ _ _) (by decide)
theorem ldVxDt (x : Reg) : Statement (.ldVxDt x) := of_mask (packFXI_maskLow _ _ _) (by decide)
theorem ldVxKey (x : Reg) : Statement (.ldVxKey x) := of_mask (packFXI_maskLow _ _ _) (by decide)
theorem ldDtVx (x : Reg) : Statement (.ldDtVx x) := of_mask (packFXI_maskLow _ _ _) (by decide)
theorem ldStVx (x : Reg) : Statement (.ldStVx x) := of_mask (packFXI_maskLow _ _ _) (by decide)
theorem addI (x : Reg) : Statement (.addI x) := of_mask (packFXI_maskLow _ _ _) (by decide)
theorem ldFont (x : Reg) : Statement (.ldFont x) := of_mask (packFXI_maskLow _ _ _) (by decide)
theorem ldBcd (x : Reg) : Statement (.ldBcd x) := of_mask (packFXI_maskLow _ _ _) (by decide)
theorem stRegs (x : Reg) : Statement (.stRegs x) := of_mask (packFXI_maskLow _ _ _) (by decide)
theorem ldRegs (x : Reg) : Statement (.ldRegs x) := of_mask (packFXI_maskLow _ _ _) (by decide)

end Sys2Proof.Laws.EncodesInItsRow
end

