-- ==== Sys2Proof/Tests/Slice0.lean ====
section
/-! SUPPORT. The model's own tests. Expected values are the spec's: the patterns of spec/30_encoding.md R67, the vectors V<n>
and examples T<n> of spec/95_test_vectors.md (the vector is named at each test), and, at the end, a witness for the
hypotheses of every statement that has some. -/

namespace Sys2Proof.Tests

open Sys2Proof.Machine Sys2Proof.Safety

/-- The state after one Step that fetches `op`, from a state; the state itself where there is none. -/
def after (op : Word) (s : State) : State :=
  match step (s.placeWord op) with
  | .next t => t
  | .fault _ => s
  | .refused _ => s

/-- Reset with one register set. -/
def with1 (x : Reg) (b : Byte) : State := State.reset.setReg x b

/-- Reset with two registers set. -/
def with2 (x : Reg) (b : Byte) (y : Reg) (c : Byte) : State := (with1 x b).setReg y c

/-- A state with an error latched. -/
def halt (s : State) (k : FatalKind) : State := { s with err := some k }

/-- A state with a press of key `k` latched. -/
def latch (s : State) (k : Key) : State := { s with lastKey := k, latchValid := true }

/-- A state with `n` entries on the stack, all 0x204. -/
def depth (s : State) (n : Fin 17) : State := { s with sp := n, stack := Vector.replicate 16 0x204 }

/-! ## Well-formedness: the row count of DXYN is the one check -/

theorem test_wf_drw_refuses_sixteen_rows : (Instr.drw 0 0 16).wellFormed = false := by decide
theorem test_wf_drw_takes_fifteen_rows : (Instr.drw 0 0 15).wellFormed = true := by decide

/-! ## Decoding: one word of each pattern, written digit by digit from R67 -/

theorem test_decode_cls : decodeWord 0x00E0 = .ok .cls := by decide
theorem test_decode_ret : decodeWord 0x00EE = .ok .ret := by decide
theorem test_decode_jp : decodeWord 0x1ABC = .ok (.jp 0xABC) := by decide
theorem test_decode_call : decodeWord 0x2300 = .ok (.call 0x300) := by decide
theorem test_decode_seImm : decodeWord 0x332A = .ok (.seImm 3 0x2A) := by decide
theorem test_decode_sneImm : decodeWord 0x4CF0 = .ok (.sneImm 12 0xF0) := by decide
theorem test_decode_seReg : decodeWord 0x5120 = .ok (.seReg 1 2) := by decide
theorem test_decode_ldImm : decodeWord 0x6A3C = .ok (.ldImm 10 0x3C) := by decide
theorem test_decode_addImm : decodeWord 0x7F01 = .ok (.addImm 15 0x01) := by decide
theorem test_decode_ldReg : decodeWord 0x8120 = .ok (.ldReg 1 2) := by decide
theorem test_decode_orReg : decodeWord 0x8121 = .ok (.orReg 1 2) := by decide
theorem test_decode_andReg : decodeWord 0x8122 = .ok (.andReg 1 2) := by decide
theorem test_decode_xorReg : decodeWord 0x8123 = .ok (.xorReg 1 2) := by decide
theorem test_decode_addReg : decodeWord 0x8124 = .ok (.addReg 1 2) := by decide
theorem test_decode_sub : decodeWord 0x8125 = .ok (.sub 1 2) := by decide
theorem test_decode_shr : decodeWord 0x81F6 = .ok (.shr 1 15) := by decide
theorem test_decode_subn : decodeWord 0x8127 = .ok (.subn 1 2) := by decide
theorem test_decode_shl : decodeWord 0x812E = .ok (.shl 1 2) := by decide
theorem test_decode_sneReg : decodeWord 0x9120 = .ok (.sneReg 1 2) := by decide
theorem test_decode_ldI : decodeWord 0xA2F0 = .ok (.ldI 0x2F0) := by decide
theorem test_decode_jpV0 : decodeWord 0xBFFF = .ok (.jpV0 0xFFF) := by decide
theorem test_decode_rnd : decodeWord 0xC30F = .ok (.rnd 3 0x0F) := by decide
theorem test_decode_drw : decodeWord 0xD12F = .ok (.drw 1 2 15) := by decide
theorem test_decode_skp : decodeWord 0xE29E = .ok (.skp 2) := by decide
theorem test_decode_sknp : decodeWord 0xE2A1 = .ok (.sknp 2) := by decide
theorem test_decode_ldVxDt : decodeWord 0xF507 = .ok (.ldVxDt 5) := by decide
theorem test_decode_ldVxKey : decodeWord 0xF30A = .ok (.ldVxKey 3) := by decide
theorem test_decode_ldDtVx : decodeWord 0xF515 = .ok (.ldDtVx 5) := by decide
theorem test_decode_ldStVx : decodeWord 0xF518 = .ok (.ldStVx 5) := by decide
theorem test_decode_addI : decodeWord 0xF21E = .ok (.addI 2) := by decide
theorem test_decode_ldFont : decodeWord 0xF429 = .ok (.ldFont 4) := by decide
theorem test_decode_ldBcd : decodeWord 0xF333 = .ok (.ldBcd 3) := by decide
theorem test_decode_stRegs : decodeWord 0xFE55 = .ok (.stRegs 14) := by decide
theorem test_decode_ldRegs : decodeWord 0xF165 = .ok (.ldRegs 1) := by decide

/-- V1 to V10: words of no row. -/
theorem test_decode_refuses_unknown_words :
    ([0x0000, 0x00E1, 0x0123, 0x5121, 0x9121, 0x8128, 0x812F, 0xE19F, 0xF1FF, 0xF100] : List Word).all
      (fun op => decide (decodeWord op = .error (.unknownInstruction op))) = true := by decide

theorem test_decode_one_byte_is_too_short : decodeBytes [0x12] = .error .tooShort := by decide

/-- R63: the more significant byte comes first. -/
theorem test_encodeBytes_ldImm : encodeBytes (.ldImm 10 0x12) = [0x6A, 0x12] := by decide

theorem test_listing : (Instr.drw 1 2 5).listing = "DRW V1, V2, 0x5" ∧ (Instr.stRegs 15).listing = "LD [I], VF" := by decide

theorem test_decodeTableWord : decodeTableWord 16 0x6A12 = some (.ldImm 10 0x12) := by decide

/-! ## The Step -/

/-- V1: an unrecognised word is reported and skipped. -/
theorem test_step_unknown_word : (after 0x0000 State.reset).pc = 0x202 ∧ stepReports (State.reset.placeWord 0x0000) = true := by
  decide

/-- V12: a fetch at 0xFFE; the next one, at 0x1000, fails. -/
theorem test_step_last_word : (after 0x6A12 (State.reset.setPc 0xFFE)).reg 10 = 0x12 ∧
    (after 0x6A12 (State.reset.setPc 0xFFE)).pc = 0x1000 := by decide

/-- V13: the second byte of a fetch at 0xFFF does not exist. -/
theorem test_step_fetch_at_top : (match step (State.reset.setPc 0xFFF) with | .next t => t.err | _ => none) =
    some .addressOutOfRange := by decide

/-- V126: a Step of a halted machine changes nothing. -/
theorem test_step_halted : step (halt State.reset .stackOverflow) = .next (halt State.reset .stackOverflow) := rfl

/-! ## Control flow -/

/-- V15. -/
theorem test_jp : (after 0x1234 State.reset).pc = 0x234 := by decide

/-- V18. -/
theorem test_call_pushes : (after 0x2300 (State.reset.setPc 0x202)).stack[0] = 0x204 ∧ (after 0x2300 (State.reset.setPc 0x202)).sp = 1 ∧
    (after 0x2300 (State.reset.setPc 0x202)).pc = 0x300 := by decide

/-- V20. -/
theorem test_call_overflows : (after 0x2400 (depth State.reset 16)).err = some .stackOverflow := by decide

/-- V22. -/
theorem test_ret_pops : (after 0x00EE (depth (State.reset.setPc 0x300) 1)).pc = 0x204 ∧ (after 0x00EE (depth State.reset 1)).sp = 0 := by decide

/-- V23. -/
theorem test_ret_underflows : (after 0x00EE State.reset).err = some .stackUnderflow := by decide

/-- T2. -/
theorem test_seImm : (after 0x332A (with1 3 0x2A)).pc = 0x204 ∧ (after 0x332B (with1 3 0x2A)).pc = 0x202 := by decide

/-- T2. -/
theorem test_sneImm : (after 0x432A (with1 3 0x2A)).pc = 0x202 ∧ (after 0x432B (with1 3 0x2A)).pc = 0x204 := by decide

/-- V24, V25. -/
theorem test_seReg : (after 0x5120 (with2 1 7 2 7)).pc = 0x204 ∧ (after 0x5120 (with2 1 7 2 8)).pc = 0x202 := by decide

/-- V27, V28. -/
theorem test_sneReg : (after 0x9120 (with2 1 7 2 8)).pc = 0x204 ∧ (after 0x9120 (with2 1 7 2 7)).pc = 0x202 := by decide

/-- V30. -/
theorem test_jpV0 : (after 0xBFFF (with1 0 0xFF)).pc = 0x10FE := by decide

/-! ## Registers and arithmetic -/

/-- V33. -/
theorem test_ldImm : (after 0x6A3C State.reset).reg 10 = 0x3C := by decide

/-- V35. -/
theorem test_addImm_no_flag : (after 0x7102 (with1 1 0xFF)).reg 1 = 1 ∧ (after 0x7102 (with1 1 0xFF)).reg 15 = 0 := by decide

/-- V37. -/
theorem test_ldReg : (after 0x8120 (with1 2 9)).reg 1 = 9 := by decide

/-- V38. -/
theorem test_orReg : (after 0x8121 ((with2 1 0xF0 2 0x0F).setReg 15 1)).reg 1 = 0xFF ∧
    (after 0x8121 ((with2 1 0xF0 2 0x0F).setReg 15 1)).reg 15 = 1 := by decide

/-- V39. -/
theorem test_andReg : (after 0x8122 (with2 1 0xF0 2 0x3C)).reg 1 = 0x30 := by decide

/-- V40. -/
theorem test_xorReg : (after 0x8123 (with2 1 0xF0 2 0x3C)).reg 1 = 0xCC := by decide

/-- T3. -/
theorem test_addReg_carry : (after 0x8124 (with2 1 250 2 10)).reg 1 = 4 ∧ (after 0x8124 (with2 1 250 2 10)).reg 15 = 1 := by decide

/-- V46, V45. -/
theorem test_addReg_flag_is_destination : (after 0x8FE4 (with2 15 200 14 100)).reg 15 = 1 ∧ (after 0x81F4 (with2 1 3 15 1)).reg 1 = 4 := by decide

/-- T3. -/
theorem test_sub_wraps : (after 0x8125 (with2 1 5 2 10)).reg 1 = 251 ∧ (after 0x8125 (with2 1 5 2 10)).reg 15 = 0 := by decide

/-- V49, V52. -/
theorem test_sub_equal : (after 0x8125 ((with2 1 7 2 7).setReg 15 1)).reg 15 = 0 ∧ (after 0x8F15 (with2 15 9 1 3)).reg 15 = 1 := by decide

/-- V54. -/
theorem test_shr : (after 0x8126 (with2 1 5 2 0xFF)).reg 1 = 2 ∧ (after 0x8126 (with2 1 5 2 0xFF)).reg 15 = 1 := by decide

/-- V56, V57. -/
theorem test_shr_flag_is_destination : (after 0x8F06 (with1 15 3)).reg 15 = 1 ∧ (after 0x8F06 (with1 15 2)).reg 15 = 0 := by decide

/-- V58. -/
theorem test_subn : (after 0x8127 (with2 1 5 2 10)).reg 1 = 5 ∧ (after 0x8127 (with2 1 5 2 10)).reg 15 = 1 := by decide

/-- V59. -/
theorem test_subn_wraps : (after 0x8127 (with2 1 10 2 5)).reg 1 = 251 ∧ (after 0x8127 (with2 1 10 2 5)).reg 15 = 0 := by decide

/-- V62. -/
theorem test_shl : (after 0x810E (with1 1 0x81)).reg 1 = 2 ∧ (after 0x810E (with1 1 0x81)).reg 15 = 1 := by decide

/-- V64, V65. -/
theorem test_shl_flag_is_destination : (after 0x8F0E (with1 15 0x81)).reg 15 = 1 ∧ (after 0x8F0E (with1 15 0x41)).reg 15 = 0 := by decide

/-- V67: with NN = 0 the result is 0, whatever the draw. -/
theorem test_rnd_masked : (after 0xC300 (with1 3 9)).reg 3 = 0 := by
  show (Config.randByte 0 &&& 0) = 0
  exact BitVec.and_zero

/-- V68: with NN = 0xFF the result is the draw, and the next draw is another one. -/
theorem test_rnd_takes_a_draw : (after 0xC3FF State.reset).reg 3 = Config.randByte 0 ∧ (after 0xC3FF State.reset).draws = 1 := by
  refine ⟨?_, rfl⟩
  show (Config.randByte 0 &&& BitVec.allOnes 8) = _
  exact BitVec.and_allOnes

/-! ## Index register and memory -/

/-- V71. -/
theorem test_ldI : (after 0xAFFF State.reset).i = 0xFFF := by decide

/-- V73, V74. -/
theorem test_addI : (after 0xF21E ((with1 2 1).setI 0xFFF)).i = 0x1000 ∧ (after 0xF21E ((with1 2 1).setI 0xFFFF)).i = 0 := by decide

/-- V75, V78. -/
theorem test_ldFont : (after 0xF429 (with1 4 0x0A)).i = 0x32 ∧ (after 0xF429 (with1 4 0xFF)).i = 0x4FB := by decide

/-- T7. -/
theorem test_ldBcd : (after 0xF333 ((with1 3 157).setI 0x300)).mem =
    [(0x200, 0xF3), (0x201, 0x33), (0x300, 1), (0x301, 5), (0x302, 7)] := by decide

/-- V80, V81. -/
theorem test_ldBcd_range : (after 0xF033 ((with1 0 255).setI 4093)).mem.read 4095 = 5 ∧
    (after 0xF033 ((with1 0 255).setI 4094)).err = some .addressOutOfRange := by decide

/-- V83. -/
theorem test_stRegs : (after 0xF155 ((with2 0 0x11 1 0x22).setI 0x300)).mem =
    [(0x200, 0xF1), (0x201, 0x55), (0x300, 0x11), (0x301, 0x22)] := by decide

/-- V84, V85. -/
theorem test_stRegs_range : (after 0xFF55 (State.reset.setI 4080)).err = none ∧
    (after 0xFF55 (State.reset.setI 4081)).err = some .addressOutOfRange := by decide

/-- V87. -/
theorem test_ldRegs : (after 0xF165 ((State.reset.setMem [(0x300, 0xAA), (0x301, 0xBB), (0x302, 0xCC)]).setI 0x300)).v.toList.take 3 =
    [0xAA, 0xBB, 0] := by decide

/-- V88, V89. -/
theorem test_ldRegs_range : (after 0xF065 ((State.reset.setMem [(4095, 0x77)]).setI 4095)).reg 0 = 0x77 ∧
    (after 0xF165 (State.reset.setI 4095)).err = some .addressOutOfRange := by decide

/-! ## Display -/

/-- V91, V92. -/
theorem test_cls : (after 0x00E0 (State.reset.setPx (Display.blank.flip 3 4))).px = Display.blank ∧ (after 0x00E0 State.reset).dirty = true := by decide

/-- V94. -/
theorem test_drw_wraps_in_x : (after 0xD121 (((with2 1 63 2 31).setMem [(0x300, 0xC0)]).setI 0x300)).px =
    (Display.blank.flip 63 31).flip 0 31 := by decide

/-- V96. -/
theorem test_drw_collision : (after 0xD121 ((((with2 1 60 2 0).setMem [(0x300, 0xFF)]).setI 0x300).setPx (Display.blank.flip 0 0))).reg 15 = 1 ∧
    (after 0xD121 ((((with2 1 60 2 0).setMem [(0x300, 0xFF)]).setI 0x300).setPx (Display.blank.flip 0 0))).px.pixel 0 0 = false := by decide

/-! ## Input and timers -/

/-- V103, V104. -/
theorem test_skp : (after 0xE29E ((with1 2 5).keyDown 5)).pc = 0x204 ∧ (after 0xE29E (with1 2 5)).pc = 0x202 := by decide

/-- V107. -/
theorem test_skp_low_bits : (after 0xE29E ((with1 2 0x15).keyDown 5)).pc = 0x204 := by decide

/-- V105, V106. -/
theorem test_sknp : (after 0xE2A1 (with1 2 5)).pc = 0x204 ∧ (after 0xE2A1 ((with1 2 5).keyDown 5)).pc = 0x202 := by decide

/-- V109. -/
theorem test_ldVxDt : (after 0xF507 (State.reset.setDt 0x3C)).reg 5 = 0x3C := by decide

/-- T6. -/
theorem test_ldVxKey_parks : (after 0xF30A State.reset).pc = 0x200 ∧ (after 0xF30A State.reset).awaiting = true := by decide

/-- V120. -/
theorem test_ldVxKey_takes_the_press : (after 0xFF0A (latch State.reset 3)).reg 15 = 3 ∧ (after 0xFF0A (latch State.reset 3)).latchValid = false ∧
    (after 0xFF0A (latch State.reset 3)).pc = 0x202 := by decide

/-- V110. -/
theorem test_ldDtVx : (after 0xF515 (with1 5 60)).dt = 60 := by decide

/-- V112. -/
theorem test_ldStVx_zero_is_no_event : (after 0xF518 (State.reset.setSt 7)).st = 0 ∧ (after 0xF518 (State.reset.setSt 7)).toneEnd = false := by decide

/-! ## Host moves -/

/-- V111. -/
theorem test_tick_tone_end : (State.reset.setSt 2).tick.toneEnd = false ∧ (State.reset.setSt 2).tick.tick.toneEnd = true ∧
    (State.reset.setSt 2).tick.tick.toneActive = false := by decide

/-- V113. -/
theorem test_tick_clamps : State.reset.tick = State.reset := by decide

/-- V117. -/
theorem test_keyDown_twice : ((State.reset.keyDown 4).keyDown 4) = State.reset.keyDown 4 ∧ (State.reset.keyDown 4).lastKey = 4 := by decide

/-- V119. -/
theorem test_keyUp_keeps_the_latch : ((State.reset.keyDown 4).keyUp 4).latchValid = true ∧ ((State.reset.keyDown 4).keyUp 4).key 4 = false := by decide

/-- V118. -/
theorem test_later_press_wins : (after 0xF30A ((State.reset.keyDown 4).keyDown 9)).reg 3 = 9 := by decide

/-- V124: one byte too many. -/
theorem test_load_too_large : (State.reset.load (List.replicate 3585 0)).err = some .romTooLarge := by
  have h : ¬ (List.replicate 3585 (0 : Byte)).length ≤ Config.maxRom := by rw [List.length_replicate]; decide
  rw [State.load, if_neg h]; rfl

/-- V125: Reset leaves the halted state. -/
theorem test_reset_clears_the_error : (halt State.reset .stackOverflow).resetMove = State.reset := by decide

/-- V90, under the default FONT, its first bytes listed: the glyph of 0. -/
theorem test_default_font_glyph_zero : Config.defaultFont.length = 80 ∧ Config.defaultFont.take 5 = [0xF0, 0x90, 0x90, 0x90, 0xF0] ∧
    (Config.defaultFont.drop 75) = [0xF0, 0x80, 0xF0, 0x80, 0x80] := by decide

theorem test_memory_write_keeps_order : (Memory.write [(0x300, 1)] 0x200 5).wf = true ∧ Memory.write [(0x300, 1)] 0x300 0 = [] := by
  decide

/-! ## Witnesses: a state and operands that meet the hypotheses of each statement, clause by clause -/

theorem test_witness_roundTrips : (Instr.drw 1 2 15).wellFormed = true ∧ decodeWord 0x81F6 = .ok (.shr 1 15) := by decide

theorem test_witness_stepRuns : ((State.reset.setPc 4094).placeWord 0x6A12).err = none ∧ ((State.reset.setPc 4094).placeWord 0x6A12).pc.toNat ≤ 4094 ∧
    (0x6A12 : Word).toNat = (((State.reset.setPc 4094).placeWord 0x6A12).mem.read 4094).toNat * 256 +
      (((State.reset.setPc 4094).placeWord 0x6A12).mem.read 4095).toNat ∧ decodeWord 0x6A12 = .ok (.ldImm 10 0x12) := by decide

theorem test_witness_stepSkips : (State.reset.setPc 4094).err = none ∧ (0 : Word).toNat = (State.reset.mem.read 4094).toNat * 256 +
    (State.reset.mem.read 4095).toNat ∧ decodeWord 0 = .error (.unknownInstruction 0) := by decide

theorem test_witness_fetchAbove : (State.reset.setPc 4095).err = none ∧ 4094 < (State.reset.setPc 4095).pc.toNat := by decide

theorem test_witness_halted : (halt State.reset .stackOverflow).err = some .stackOverflow := by decide

theorem test_witness_placed : State.reset.mem.wf = true ∧ (Instr.stRegs 15).wellFormed = true := by decide

theorem test_witness_ret : State.reset.sp.val = 0 ∧ (depth State.reset 1).sp.val = (0 : Fin 16).val + 1 ∧ (depth State.reset 16).sp.val = (15 : Fin 16).val + 1 := by decide

theorem test_witness_call : (depth State.reset 16).sp.val = 16 ∧ (depth State.reset 15).sp.val = (15 : Fin 16).val ∧ State.reset.sp.val = (0 : Fin 16).val := by decide

theorem test_witness_callThenReturn : (depth State.reset 15).sp.val < 16 := by decide

theorem test_witness_selfJump : ((State.reset.setPhase .running).placeWord 0x1200).err = none ∧ ((State.reset.setPhase .running).placeWord 0x1200).phase = .running ∧
    (((State.reset.setPhase .running).placeWord 0x1200).fetch = .ok 0x1200) ∧ decodeWord 0x1200 = .ok (.jp 0x200) ∧
    ((State.reset.setPhase .running).placeWord 0x1200).pc.toNat = (0x200 : Addr).toNat := ⟨rfl, rfl, rfl, by decide, rfl⟩

theorem test_witness_bcd : State.reset.mem.wf = true ∧ (State.reset.setI 4093).i.toNat ≤ 4093 ∧ 4093 < (State.reset.setI 4094).i.toNat := by decide

theorem test_witness_registerBlocks : State.reset.mem.wf = true ∧ (State.reset.setI 4080).i.toNat + (15 : Reg).val ≤ 4095 ∧
    4095 < (State.reset.setI 4081).i.toNat + (15 : Reg).val ∧ (State.reset.setI 4095).i.toNat + (0 : Reg).val ≤ 4095 := by decide

theorem test_witness_storeThenLoad : ∃ t, (State.reset.setI 4080).mem.wf = true ∧ (State.reset.setI 4080).i.toNat + (15 : Reg).val ≤ 4095 ∧
    exec (.stRegs 15) (State.reset.setI 4080) = .next t ∧ sameMem t (t.setReg 15 7) ∧ (t.setReg 15 7).i = t.i ∧
    (t.setReg 15 7).reg 15 ≠ (State.reset.setI 4080).reg 15 :=
  ⟨_, by decide, by decide, execStRegs_ok 15 (by decide), fun _ => by rw [State.setReg_mem], by rw [State.setReg_i], by decide⟩

theorem test_witness_storedWord : State.reset.mem.wf = true ∧ 1 ≤ (1 : Reg).val ∧ ((State.reset.setPc 4092).setI 4094).i = ((State.reset.setPc 4092).setI 4094).pc + 2 ∧
    ((State.reset.setPc 4092).setI 4094).pc.toNat + 2 + (1 : Reg).val ≤ 4095 := by decide

theorem test_witness_drawSprite : 15 < 16 ∧ (State.reset.setI 4081).i.toNat + 15 ≤ 4096 ∧ ((15 : Nat) ≠ 0 ∧ 4096 < (State.reset.setI 4082).i.toNat + 15) := by decide

theorem test_witness_drawTwice : ∃ t u, (0 < 16) ∧ ((0 : Nat) = 0 ∨ State.reset.i.toNat + 0 ≤ 4096) ∧ (1 : Reg) ≠ 15 ∧ (2 : Reg) ≠ 15 ∧
    exec (.drw 1 2 0) State.reset = .next t ∧ exec (.drw 1 2 0) t = .next u := ⟨_, _, by decide, .inl rfl, by decide, by decide, rfl, rfl⟩

theorem test_witness_drawTwice_rows : ∃ t u, 1 < 16 ∧ (State.reset.setI 0x300).i.toNat + 1 ≤ 4096 ∧
    exec (.drw 1 2 1) (State.reset.setI 0x300) = .next t ∧ exec (.drw 1 2 1) t = .next u := ⟨_, _, by decide, by decide, rfl, rfl⟩

theorem test_witness_keySkips : (5 : Key).val = ((with1 2 0xF5).reg 2).toNat % 16 := by decide

theorem test_witness_keyWait : (latch State.reset 3).latchValid = true ∧ State.reset.latchValid = false := by decide

theorem test_witness_keyPress : (State.reset.placeWord 0xF30A).err = none ∧ (State.reset.placeWord 0xF30A).fetch = .ok 0xF30A ∧ decodeWord 0xF30A = .ok (.ldVxKey 3) ∧
    (State.reset.placeWord 0xF30A).latchValid = false ∧ (State.reset.placeWord 0xF30A).key 15 = false := ⟨rfl, rfl, by decide, rfl, by decide⟩

theorem test_witness_hostMoves : State.reset.err = none ∧ (State.reset.keyDown 15).err = none ∧ (State.reset.keyDown 15).key 15 = true ∧ State.reset.key 15 = false := by decide

theorem test_witness_load : State.reset.err = none ∧ State.reset.mem.wf = true ∧ State.reset.phase = .fresh ∧
    (List.replicate 3584 (0 : Byte)).length ≤ 3584 ∧ 3584 < (List.replicate 3585 (0 : Byte)).length ∧
    (State.reset.setPhase .loaded).phase ≠ .fresh :=
  ⟨rfl, by decide, rfl, by rw [List.length_replicate], by rw [List.length_replicate]; decide, by decide⟩

/-- For the statements over every instruction: an instruction that ends, one that raises, a flag writer. -/
theorem test_witness_anyInstruction : ∃ t u, State.reset.err = none ∧ exec (.addReg 1 2) State.reset = .next t ∧
    raises State.reset (.addReg 1 2) = none ∧ writesFlag (.addReg 1 2) = true ∧ exec .ret State.reset = .next u ∧
    raises State.reset .ret = some .stackUnderflow :=
  ⟨_, _, rfl, rfl, rfl, rfl, rfl, rfl⟩

theorem test_witness_pcCases : ∃ t u, exec (.ldVxKey 3) State.reset = .next t ∧ raises State.reset (.ldVxKey 3) = none ∧
    t.pc = State.reset.pc ∧ exec (.seReg 1 1) State.reset = .next u ∧ u.pc = State.reset.pc + 4 :=
  ⟨_, _, rfl, rfl, rfl, rfl, by decide⟩

/-- The control transfers of the same statement: targets that no other case of R72 gives. -/
theorem test_witness_pcTargets : ∃ t u, exec .ret (depth State.reset 16) = .next t ∧ raises (depth State.reset 16) .ret = none ∧
    t.pc = 0x204 ∧ exec (.jpV0 0xFFF) (with1 0 0xFF) = .next u ∧ raises (with1 0 0xFF) (.jpV0 0xFFF) = none ∧ u.pc = 0x10FE :=
  ⟨_, _, rfl, rfl, by decide, rfl, rfl, by decide⟩

/-- The invariant holds of a parked engine, not only of reset: a state that meets it with every clause in play. -/
theorem test_witness_invariant : ∃ t, Inv ((depth (State.reset.setPhase .running) 16).placeWord 0xF30A).park ∧
    step ((depth (State.reset.setPhase .running) 16).placeWord 0xF30A).park = .next t := by
  refine ⟨_, And.intro (by decide) (And.intro ?_ (And.intro ?_ ?_)), rfl⟩
  · intro _ _
    exact ⟨0xF30A, 3, rfl, by decide⟩
  · intro _
    refine ⟨by decide, fun k _ => ?_⟩
    show ((Vector.replicate 16 (0x204 : Word)).get k).toNat ≤ 0x1000
    rw [Vector.get_eq_getElem, Vector.getElem_replicate]; decide
  · intro _ _; rfl

theorem test_witness_runs : ∃ t, runMoves State.reset [.load [0x12, 0x00], .step, .tick, .keyDown 3, .step] = .next t := ⟨_, rfl⟩

theorem test_witness_haltedRun : ∃ t, (halt State.reset .stackOverflow).err = some .stackOverflow ∧ Move.reset ∉ [Move.step, Move.step] ∧
    runMoves (halt State.reset .stackOverflow) [.step, .step] = .next t :=
  ⟨_, rfl, by decide, rfl⟩

/-- A Step that changes DT, and one that changes ST, each by the instruction that writes it. -/
theorem test_witness_noTick : ∃ t u, ((with1 5 60).placeWord 0xF515).err = none ∧ step ((with1 5 60).placeWord 0xF515) = .next t ∧
    t.err = none ∧ t.dt ≠ ((with1 5 60).placeWord 0xF515).dt ∧ step ((with1 5 60).placeWord 0xF518) = .next u ∧
    u.err = none ∧ u.st ≠ ((with1 5 60).placeWord 0xF518).st :=
  ⟨_, _, rfl, rfl, rfl, by decide, rfl, rfl, by decide⟩

end Sys2Proof.Tests
end

section
/-! PROOFS. The Step on a word of two given bytes (spec/30_encoding.md R71, R74; spec/20_memory.md R46). -/

namespace Sys2Proof.Machine

open Sys2Proof.Safety

variable {s : State}

/-- The fetch in the words of the statements: the word whose value is that of the two bytes at PC, big-endian (R46). -/
theorem State.fetch_eq_ok_of_toNat {op : Word} (hpc : s.pc.toNat ≤ 4094)
    (hop : op.toNat = (s.mem.read s.pc.toNat).toNat * 256 + (s.mem.read (s.pc.toNat + 1)).toNat) : s.fetch = .ok op := by
  rw [State.fetch_ok (by omega), BitVec.eq_of_toNat_eq (hop.trans (toNat_wordOfBytes _ _).symm)]

/-- A live machine that fetches an unrecognised word reports it (R145). -/
theorem stepReports_unknown {op : Word} {r : Reject} (h : s.err = none) (hf : s.fetch = .ok op)
    (hd : decodeWord op = .error r) : stepReports s = true := by
  simp [stepReports, State.reportsUnknown, State.halted, h, hf, hd]

/-- Settles O8: the two bytes at PC are the fetched word, so the Step is `advance`, a write of PC alone. -/
theorem stepSkipsAnUnrecognisedWord : Obligations.StepSkipsAnUnrecognisedWord := by
  intro s op r hlive hpc hop hd
  have hf : s.fetch = .ok op := State.fetch_eq_ok_of_toNat hpc hop
  exact ⟨stepReports_unknown hlive hf hd, (s.setPhase .running).advance, step_unknown hlive hf hd, rfl, onlyPc_setPc _ _⟩

end Sys2Proof.Machine
end

section
/-! PROOFS. Jumps and skips (spec/40_control_flow.md R81, R83 to R87): each is one write of PC, so the frame is that of the
write and what is left is the value PC receives. -/

namespace Sys2Proof.Safety

open Sys2Proof.Machine

/-- A skip is a write of PC, whichever way its condition falls. -/
theorem onlyPc_skipIf (s : State) (c : Bool) : onlyPc s (s.skipIf c) := onlyPc_setPc s _

end Sys2Proof.Safety

namespace Sys2Proof.Machine

open Sys2Proof.Safety

/-- The sum of R87 stays below 0xFFF + 0xFF + 1, so the addition of words does not wrap. -/
theorem toNat_zextAddr_add_zextByte (nnn : Addr) (b : Byte) : (zextAddr nnn + zextByte b).toNat = nnn.toNat + b.toNat := by
  have hnnn := nnn.isLt
  have hb := b.isLt
  rw [BitVec.toNat_add, toNat_zextAddr, toNat_zextByte]
  omega

/-- Skip if equal, the comparison made on the unsigned values (R8, R83, R85). -/
theorem State.skipIf_eq_pc (s : State) (a b : Byte) :
    (s.skipIf (decide (a = b))).pc = if a.toNat = b.toNat then s.pc + 4 else s.pc + 2 := by
  by_cases h : a = b <;> simp [h, BitVec.toNat_inj]

/-- Skip if not equal, the comparison made on the unsigned values (R8, R84, R86). -/
theorem State.skipIf_ne_pc (s : State) (a b : Byte) :
    (s.skipIf (decide (a ≠ b))).pc = if a.toNat = b.toNat then s.pc + 2 else s.pc + 4 := by
  by_cases h : a = b <;> simp [h, BitVec.toNat_inj]

/-- Settles O13: both jumps are `setPc` of the target. -/
theorem jumpsSetPcExactly : Obligations.JumpsSetPcExactly := by
  intro s nnn
  constructor
  · exact ⟨s.setPc (zextAddr nnn), rfl, toNat_zextAddr nnn, onlyPc_setPc s _⟩
  · exact ⟨s.setPc (zextAddr nnn + zextByte (s.reg 0)), rfl, toNat_zextAddr_add_zextByte nnn _, onlyPc_setPc s _⟩

/-- Settles O14: both skips are `skipIf` of a comparison with NN. -/
theorem immediateSkips : Obligations.ImmediateSkips := by
  intro s x nn
  constructor
  · exact ⟨s.skipIf (decide (s.reg x = nn)), rfl, s.skipIf_eq_pc _ _, onlyPc_skipIf s _⟩
  · exact ⟨s.skipIf (decide (s.reg x ≠ nn)), rfl, s.skipIf_ne_pc _ _, onlyPc_skipIf s _⟩

/-- Settles O15: both skips are `skipIf` of a comparison with V[Y]. -/
theorem registerSkips : Obligations.RegisterSkips := by
  intro s x y
  constructor
  · exact ⟨s.skipIf (decide (s.reg x = s.reg y)), rfl, s.skipIf_eq_pc _ _, onlyPc_skipIf s _⟩
  · exact ⟨s.skipIf (decide (s.reg x ≠ s.reg y)), rfl, s.skipIf_ne_pc _ _, onlyPc_skipIf s _⟩

end Sys2Proof.Machine
end


section
/-! PROOFS. Register loads, ADD_IMM and the bitwise operations (spec/41_register_alu.md R90 to R95): each is one write of V[X] that
goes on to the next instruction, so the frame is that of the write and what is left is the value V[X] receives. -/

namespace Sys2Proof.Machine

open Sys2Proof.Safety

/-- The register an instruction wrote, once PC has moved on; no flag write comes after it, so this covers X = F too. -/
theorem State.setReg_advance_reg_same (s : State) (x : Reg) (b : Byte) : (s.setReg x b).advance.reg x = b := by
  rw [State.advance_reg, State.reg_setReg_same]

/-- Settles O20: both loads are one write of V[X], of NN or of V[Y]. -/
theorem registerLoads : Obligations.RegisterLoads := by
  intro s x y nn
  constructor
  · exact ⟨(s.setReg x nn).advance, rfl, s.setReg_advance_reg_same x nn, rfl, onlyRegs_setReg s x nn⟩
  · exact ⟨(s.setReg x (s.reg y)).advance, rfl, s.setReg_advance_reg_same x _, rfl, onlyRegs_setReg s x _⟩

/-- Settles O21: the sum of two bytes is the sum of their values modulo 256, and V[X] alone receives it. -/
theorem addImmediate : Obligations.AddImmediate := by
  intro s x nn
  refine ⟨(s.setReg x (s.reg x + nn)).advance, rfl, ?_, rfl, onlyRegs_setReg s x _⟩
  rw [State.setReg_advance_reg_same, BitVec.toNat_add]

/-- Settles O22: each operation is one write of V[X], and bit `k` of the value written is read off by the library's lemma for
that operation. -/
theorem logicOperations : Obligations.LogicOperations := by
  intro s x y
  refine ⟨?_, ?_, ?_⟩
  · refine ⟨(s.setReg x (s.reg x ||| s.reg y)).advance, rfl, fun k _ => ?_, rfl, onlyRegs_setReg s x _⟩
    rw [State.setReg_advance_reg_same, BitVec.getLsbD_or]
  · refine ⟨(s.setReg x (s.reg x &&& s.reg y)).advance, rfl, fun k _ => ?_, rfl, onlyRegs_setReg s x _⟩
    rw [State.setReg_advance_reg_same, BitVec.getLsbD_and]
  · refine ⟨(s.setReg x (s.reg x ^^^ s.reg y)).advance, rfl, fun k _ => ?_, rfl, onlyRegs_setReg s x _⟩
    rw [State.setReg_advance_reg_same, BitVec.getLsbD_xor]

end Sys2Proof.Machine
end

section
/-! PROOFS. Index register and register loads (spec/42_index_memory.md R110 to R112, R116): the first three are one write of I, the
last one write of the whole register file, each going on to the next instruction. -/

namespace Sys2Proof.Safety

open Sys2Proof.Machine

/-- A write of I that goes on to the next instruction: PC moves past it, and no register, VF included, and nothing beyond
differs (R72, R110 to R112). -/
theorem setI_advance_frame (s : State) (w : Word) :
    (s.setI w).advance.pc = s.pc + 2 ∧ sameRegs s (s.setI w).advance ∧ sameBeyondRegs s (s.setI w).advance := by
  refine ⟨rfl, fun _ => rfl, ?_⟩
  simp [sameBeyondRegs, sameMem, sameStack, sameDisplay, sameTimers, sameWait, sameHostSide]

/-- A write of the register file that goes on to the next instruction touches nothing beyond the registers and PC. -/
theorem sameBeyondRegs_setV_advance (s : State) (v : Vector Byte 16) : sameBeyondRegs s (s.setV v).advance := by
  simp [sameBeyondRegs, sameMem, sameStack, sameDisplay, sameTimers, sameWait, sameHostSide]

end Sys2Proof.Safety

namespace Sys2Proof.Machine

open Sys2Proof.Safety

/-- The sum of R111 wraps as a 16-bit word, not at the end of memory. -/
theorem toNat_add_zextByte (w : Word) (b : Byte) : (w + zextByte b).toNat = (w.toNat + b.toNat) % 65536 := by
  rw [BitVec.toNat_add, toNat_zextByte]

/-- The product of R112 is at most 5 * 255, so the multiplication of words does not wrap. -/
theorem toNat_five_mul_zextByte (b : Byte) : (5 * zextByte b).toNat = 5 * b.toNat := by
  have hb := b.isLt
  rw [BitVec.toNat_mul, toNat_zextByte]
  exact Nat.mod_eq_of_lt (show 5 * b.toNat < 65536 by omega)

/-- A register read from a register file just written, once PC has moved on. -/
@[simp] theorem State.setV_advance_reg (s : State) (v : Vector Byte 16) (z : Reg) : (s.setV v).advance.reg z = v[z.val] := rfl

/-- Settles O30: where the block fits, one write of the register file puts the bytes read from the old I on over V[0] to V[X];
where it ends above 4095, its read raises. -/
theorem loadRegisters : Obligations.LoadRegisters := by
  intro s x
  constructor
  · intro hin
    refine ⟨_, execLdRegs_ok x hin, fun z => ?_, rfl, rfl, sameBeyondRegs_setV_advance s _⟩
    rw [State.setV_advance_reg, putRegs_block, State.reg_def]
  · intro hout
    exact ⟨_, execLdRegs_error x hout, State.raiseFatal_err s _⟩

/-- Settles O27: all three are one write of I, of NNN, of a sum or of a product. -/
theorem indexRegisterWrites : Obligations.IndexRegisterWrites := by
  intro s nnn x
  refine ⟨?_, ?_, ?_⟩
  · exact ⟨(s.setI (zextAddr nnn)).advance, rfl, toNat_zextAddr nnn, setI_advance_frame s _⟩
  · exact ⟨(s.setI (s.i + zextByte (s.reg x))).advance, rfl, toNat_add_zextByte s.i _, setI_advance_frame s _⟩
  · exact ⟨(s.setI (5 * zextByte (s.reg x))).advance, rfl, toNat_five_mul_zextByte _, setI_advance_frame s _⟩

end Sys2Proof.Machine
end

section
/-! PROOFS. Clearing the display (spec/43_display.md R120): one write of the display that goes on to the next instruction. -/

namespace Sys2Proof.Safety

open Sys2Proof.Machine

/-- A write of the display that goes on to the next instruction: PC moves past it, and no register, VF included, and nothing
else beyond the display differs (R72, R120). -/
theorem setPx_advance_frame (s : State) (p : Display) :
    (s.setPx p).advance.pc = s.pc + 2 ∧ sameRegs s (s.setPx p).advance ∧ (s.setPx p).advance.i = s.i ∧
      sameMem s (s.setPx p).advance ∧ sameStack s (s.setPx p).advance ∧ sameTimers s (s.setPx p).advance ∧
      sameWait s (s.setPx p).advance ∧ sameHostSide s (s.setPx p).advance := by
  refine ⟨rfl, fun _ => rfl, rfl, ?_⟩
  simp [sameMem, sameStack, sameTimers, sameWait, sameHostSide]

end Sys2Proof.Safety

namespace Sys2Proof.Machine

open Sys2Proof.Safety

/-- Settles O33: CLS is one write of the blank display, and a write of the display sets `dirty` whatever the pixels were. -/
theorem clearScreen : Obligations.ClearScreen := by
  intro s
  exact ⟨(s.setPx Display.blank).advance, rfl, Display.pixel_blank, rfl, setPx_advance_frame s _⟩

end Sys2Proof.Machine
end

section
/-! PROOFS. The decoder and the encoder (spec/30_encoding.md R63 to R70). A format packs its fields, and a word is the pack of its
own fields: the two directions of the round trip, and the opcode map, rest on these two facts. -/

namespace Sys2Proof

/-! A word of the fixed digits of a format is the pack of its free fields. -/

theorem packFA_of_fields {op : Word} {g : BitVec 4} (hg : fieldG op = g) : packFA g (fieldNNN op) = op := by
  rw [← hg, packFA_fields]

theorem packFXI_of_fields {op : Word} {g : BitVec 4} {nn : Byte} (hg : fieldG op = g) (hnn : fieldNN op = nn) :
    packFXI g (fieldX op) nn = op := by
  rw [← hg, ← hnn, packFXI_fields]

theorem packFXYN_of_fields {op : Word} {g n : BitVec 4} (hg : fieldG op = g) (hn : fieldN op = n) :
    packFXYN g (fieldX op) (fieldY op) n = op := by
  rw [← hg, ← hn, packFXYN_fields]

/-- Settles O2: the fields of the pack are the operands, and its fixed digits select the instruction's branch. -/
theorem decodeEncodeRoundTrip : Obligations.DecodeEncodeRoundTrip := by
  intro i hwf
  cases i with
  | cls | ret => decide
  | jp _ | call _ | ldI _ | jpV0 _ => simp [encode, decodeWord, fieldG_packFA, fieldNNN_packFA]
  | seImm _ _ | sneImm _ _ | ldImm _ _ | addImm _ _ | rnd _ _ =>
    simp [encode, decodeWord, fieldG_packFXI, fieldX_packFXI, fieldNN_packFXI]
  | skp _ | sknp _ => simp [encode, decodeWord, decodeGroupE, fieldG_packFXI, fieldX_packFXI, fieldNN_packFXI]
  | ldVxDt _ | ldVxKey _ | ldDtVx _ | ldStVx _ | addI _ | ldFont _ | ldBcd _ | stRegs _ | ldRegs _ =>
    simp [encode, decodeWord, decodeGroupF, fieldG_packFXI, fieldX_packFXI, fieldNN_packFXI]
  | seReg _ _ | sneReg _ _ =>
    simp [encode, decodeWord, fieldG_packFXYN, fieldX_packFXYN, fieldY_packFXYN, fieldN_packFXYN]
  | ldReg _ _ | orReg _ _ | andReg _ _ | xorReg _ _ | addReg _ _ | sub _ _ | shr _ _ | subn _ _ | shl _ _ =>
    simp [encode, decodeWord, decodeGroup8, fieldG_packFXYN, fieldX_packFXYN, fieldY_packFXYN, fieldN_packFXYN]
  | drw _ _ n =>
    have hn : n < 16 := of_decide_eq_true hwf
    simp [encode, decodeWord, fieldG_packFXYN, fieldX_packFXYN, fieldY_packFXYN, fieldN_packFXYN, Nat.mod_eq_of_lt hn]

/-- The instruction is one the encoding can hold, and the word is its encoding. -/
def Encodes (op : Word) (i : Instr) : Prop := i.wellFormed = true ∧ encode i = op

theorem decodeGroup0_encodes {op : Word} {i : Instr} (h : decodeGroup0 op = .ok i) : Encodes op i := by
  unfold decodeGroup0 at h
  split at h
  · next h0 => cases h; exact ⟨rfl, h0.symm⟩
  split at h
  · next h0 => cases h; exact ⟨rfl, h0.symm⟩
  · cases h

theorem decodeGroup8_encodes {op : Word} {i : Instr} (hg : fieldG op = 8) (h : decodeGroup8 op = .ok i) : Encodes op i := by
  unfold decodeGroup8 at h
  split at h
  case h_1 hn | h_2 hn | h_3 hn | h_4 hn | h_5 hn | h_6 hn | h_7 hn | h_8 hn | h_9 hn =>
    cases h; exact ⟨rfl, packFXYN_of_fields hg (BitVec.eq_of_toNat_eq hn)⟩
  case h_10 => cases h

theorem decodeGroupE_encodes {op : Word} {i : Instr} (hg : fieldG op = 14) (h : decodeGroupE op = .ok i) : Encodes op i := by
  unfold decodeGroupE at h
  split at h
  · next hnn => cases h; exact ⟨rfl, packFXI_of_fields hg hnn⟩
  split at h
  · next hnn => cases h; exact ⟨rfl, packFXI_of_fields hg hnn⟩
  · cases h

theorem decodeGroupF_encodes {op : Word} {i : Instr} (hg : fieldG op = 15) (h : decodeGroupF op = .ok i) : Encodes op i := by
  unfold decodeGroupF at h
  repeat'
    split at h
    · next hnn => cases h; exact ⟨rfl, packFXI_of_fields hg hnn⟩
  cases h

/-- The row count of DXYN is a field of four bits, so it is below 16 and packs again to the field. -/
theorem drw_encodes {op : Word} (hg : fieldG op = 13) : Encodes op (.drw (fieldX op) (fieldY op) (fieldN op).toNat) := by
  refine ⟨decide_eq_true (fieldN op).isLt, ?_⟩
  rw [encode, BitVec.ofNat_toNat, BitVec.setWidth_eq]
  exact packFXYN_of_fields hg rfl

/-- A word that decodes is the encoding of what it decodes to. -/
theorem decodeWord_encodes {op : Word} {i : Instr} (h : decodeWord op = .ok i) : Encodes op i := by
  unfold decodeWord at h
  split at h
  case h_1 => exact decodeGroup0_encodes h
  case h_9 hg => exact decodeGroup8_encodes (BitVec.eq_of_toNat_eq hg) h
  case h_15 hg => exact decodeGroupE_encodes (BitVec.eq_of_toNat_eq hg) h
  case h_16 =>
    have hlt := (fieldG op).isLt
    simp only [imp_false] at *
    exact decodeGroupF_encodes (BitVec.eq_of_toNat_eq (show (fieldG op).toNat = 15 by omega)) h
  case h_6 hg | h_10 hg =>
    split at h
    · next hn => cases h; exact ⟨rfl, packFXYN_of_fields (BitVec.eq_of_toNat_eq hg) hn⟩
    · cases h
  case h_2 hg | h_3 hg | h_11 hg | h_12 hg => cases h; exact ⟨rfl, packFA_of_fields (BitVec.eq_of_toNat_eq hg)⟩
  case h_4 hg | h_5 hg | h_7 hg | h_8 hg | h_13 hg =>
    cases h; exact ⟨rfl, packFXI_of_fields (BitVec.eq_of_toNat_eq hg) rfl⟩
  case h_14 hg => cases h; exact drw_encodes (BitVec.eq_of_toNat_eq hg)

/-- Settles O3: every branch of the decoder takes the fields that the encoder packs again. -/
theorem encodeDecodeRoundTrip : Obligations.EncodeDecodeRoundTrip := fun _ _ h => decodeWord_encodes h

/-- Settles O4: the two bytes make the word again, which decodes to the instruction. -/
theorem bytesRoundTrip : Obligations.BytesRoundTrip := by
  intro i rest hwf
  simp [encodeBytes, decodeBytes, wordOfBytes_split, decodeEncodeRoundTrip i hwf]

/-! The fields as numbers (R64). -/

theorem toNat_fieldG (op : Word) : (fieldG op).toNat = op.toNat / 4096 := by
  have := op.isLt
  rw [fieldG, BitVec.extractLsb'_toNat, Nat.shiftRight_eq_div_pow]
  omega

theorem toNat_fieldN (op : Word) : (fieldN op).toNat = op.toNat % 16 := by simp [fieldN]

theorem toNat_fieldNN (op : Word) : (fieldNN op).toNat = op.toNat % 256 := by simp [fieldNN]

/-! The words each group refuses (R69). -/

/-- A comparison of the decoder refuses where it fails and what follows it refuses. -/
theorem ite_ok_eq_error_iff {c : Prop} [Decidable c] {i : Instr} {e : Except Reject Instr} {r : Reject} :
    (if c then .ok i else e) = .error r ↔ ¬ c ∧ e = .error r := by
  by_cases h : c <;> simp [h]

theorem decodeGroup0_error_iff (op : Word) :
    decodeGroup0 op = .error (.unknownInstruction op) ↔ op.toNat ≠ 0x00E0 ∧ op.toNat ≠ 0x00EE := by
  simp [decodeGroup0, ite_ok_eq_error_iff, ← BitVec.toNat_inj]

theorem decodeGroup8_error_iff (op : Word) : decodeGroup8 op = .error (.unknownInstruction op) ↔
    op.toNat % 16 ∈ [8, 9, 0xA, 0xB, 0xC, 0xD, 0xF] := by
  have hlt := Nat.mod_lt op.toNat (show 0 < 16 by decide)
  rw [decodeGroup8, toNat_fieldN]
  generalize op.toNat % 16 = n at hlt
  interval_cases n <;> simp

theorem decodeGroupE_error_iff (op : Word) : decodeGroupE op = .error (.unknownInstruction op) ↔
    op.toNat % 256 ∉ [0x9E, 0xA1] := by
  simp [decodeGroupE, ite_ok_eq_error_iff, ← BitVec.toNat_inj, toNat_fieldNN]

theorem decodeGroupF_error_iff (op : Word) : decodeGroupF op = .error (.unknownInstruction op) ↔
    op.toNat % 256 ∉ [0x07, 0x0A, 0x15, 0x18, 0x1E, 0x29, 0x33, 0x55, 0x65] := by
  simp [decodeGroupF, ite_ok_eq_error_iff, ← BitVec.toNat_inj, toNat_fieldNN]

/-- Settles O6: the group of a word is its value over 4096, and each group refuses the words of its own line. -/
theorem unrecognisedWords : Obligations.UnrecognisedWords := by
  intro op
  have hlt := op.isLt
  rw [decodeWord, toNat_fieldG]
  have hg : op.toNat / 4096 < 16 := by omega
  generalize op.toNat / 4096 = g at hg
  interval_cases g <;>
    simp [decodeGroup0_error_iff, decodeGroup8_error_iff, decodeGroupE_error_iff, decodeGroupF_error_iff,
      ← BitVec.toNat_inj, toNat_fieldN]


/-! The digits that a row of the opcode map fixes (R67). -/

/-- A mask that keeps the bits of a field fixes the field. -/
theorem extract_of_inRow {op m k : Word} {start len : Nat} {c : BitVec len} (h : inRow op (m, k) = true)
    (hk : k.extractLsb' start len = BitVec.allOnes len) (hm : m.extractLsb' start len = c) : op.extractLsb' start len = c := by
  have hop : op &&& k = m := of_decide_eq_true h
  rw [← hm, ← hop, BitVec.extractLsb'_and, hk, BitVec.and_allOnes]

theorem eq_of_inRow_full {op m : Word} (h : inRow op (m, 0xFFFF) = true) : op = m :=
  (BitVec.and_allOnes (x := op)).symm.trans (of_decide_eq_true h)

theorem packFA_of_inRow {op m : Word} {g : BitVec 4} (h : inRow op (m, 0xF000) = true) (hg : fieldG m = g) :
    packFA g (fieldNNN op) = op :=
  packFA_of_fields (extract_of_inRow h rfl hg)

theorem packFXI_of_inRow {op m : Word} {g : BitVec 4} (h : inRow op (m, 0xF000) = true) (hg : fieldG m = g) :
    packFXI g (fieldX op) (fieldNN op) = op :=
  packFXI_of_fields (extract_of_inRow h rfl hg) rfl

theorem packFXI_of_inRow_low {op m : Word} {g : BitVec 4} {nn : Byte} (h : inRow op (m, 0xF0FF) = true)
    (hg : fieldG m = g) (hnn : fieldNN m = nn) : packFXI g (fieldX op) nn = op :=
  packFXI_of_fields (extract_of_inRow h rfl hg) (extract_of_inRow h rfl hnn)

theorem packFXYN_of_inRow {op m : Word} {g n : BitVec 4} (h : inRow op (m, 0xF00F) = true)
    (hg : fieldG m = g) (hn : fieldN m = n) : packFXYN g (fieldX op) (fieldY op) n = op :=
  packFXYN_of_fields (extract_of_inRow h rfl hg) (extract_of_inRow h rfl hn)

/-- A word of a row is the encoding of an instruction of that row, row by row. -/
theorem exists_encodes_of_inRow (op : Word) : ∀ r ∈ opcodeRows, inRow op r = true → ∃ i, Encodes op i ∧ rowOf i = r := by
  simp only [opcodeRows, List.cons_append, List.nil_append, List.forall_mem_cons]
  exact ⟨
    fun h => ⟨.cls, ⟨rfl, (eq_of_inRow_full h).symm⟩, rfl⟩,
    fun h => ⟨.ret, ⟨rfl, (eq_of_inRow_full h).symm⟩, rfl⟩,
    fun h => ⟨.jp (fieldNNN op), ⟨rfl, packFA_of_inRow h rfl⟩, rfl⟩,
    fun h => ⟨.call (fieldNNN op), ⟨rfl, packFA_of_inRow h rfl⟩, rfl⟩,
    fun h => ⟨.seImm (fieldX op) (fieldNN op), ⟨rfl, packFXI_of_inRow h rfl⟩, rfl⟩,
    fun h => ⟨.sneImm (fieldX op) (fieldNN op), ⟨rfl, packFXI_of_inRow h rfl⟩, rfl⟩,
    fun h => ⟨.seReg (fieldX op) (fieldY op), ⟨rfl, packFXYN_of_inRow h rfl rfl⟩, rfl⟩,
    fun h => ⟨.ldImm (fieldX op) (fieldNN op), ⟨rfl, packFXI_of_inRow h rfl⟩, rfl⟩,
    fun h => ⟨.addImm (fieldX op) (fieldNN op), ⟨rfl, packFXI_of_inRow h rfl⟩, rfl⟩,
    fun h => ⟨.ldReg (fieldX op) (fieldY op), ⟨rfl, packFXYN_of_inRow h rfl rfl⟩, rfl⟩,
    fun h => ⟨.orReg (fieldX op) (fieldY op), ⟨rfl, packFXYN_of_inRow h rfl rfl⟩, rfl⟩,
    fun h => ⟨.andReg (fieldX op) (fieldY op), ⟨rfl, packFXYN_of_inRow h rfl rfl⟩, rfl⟩,
    fun h => ⟨.xorReg (fieldX op) (fieldY op), ⟨rfl, packFXYN_of_inRow h rfl rfl⟩, rfl⟩,
    fun h => ⟨.addReg (fieldX op) (fieldY op), ⟨rfl, packFXYN_of_inRow h rfl rfl⟩, rfl⟩,
    fun h => ⟨.sub (fieldX op) (fieldY op), ⟨rfl, packFXYN_of_inRow h rfl rfl⟩, rfl⟩,
    fun h => ⟨.shr (fieldX op) (fieldY op), ⟨rfl, packFXYN_of_inRow h rfl rfl⟩, rfl⟩,
    fun h => ⟨.subn (fieldX op) (fieldY op), ⟨rfl, packFXYN_of_inRow h rfl rfl⟩, rfl⟩,
    fun h => ⟨.shl (fieldX op) (fieldY op), ⟨rfl, packFXYN_of_inRow h rfl rfl⟩, rfl⟩,
    fun h => ⟨.sneReg (fieldX op) (fieldY op), ⟨rfl, packFXYN_of_inRow h rfl rfl⟩, rfl⟩,
    fun h => ⟨.ldI (fieldNNN op), ⟨rfl, packFA_of_inRow h rfl⟩, rfl⟩,
    fun h => ⟨.jpV0 (fieldNNN op), ⟨rfl, packFA_of_inRow h rfl⟩, rfl⟩,
    fun h => ⟨.rnd (fieldX op) (fieldNN op), ⟨rfl, packFXI_of_inRow h rfl⟩, rfl⟩,
    fun h => ⟨.drw (fieldX op) (fieldY op) (fieldN op).toNat, drw_encodes (extract_of_inRow h rfl rfl), rfl⟩,
    fun h => ⟨.skp (fieldX op), ⟨rfl, packFXI_of_inRow_low h rfl rfl⟩, rfl⟩,
    fun h => ⟨.sknp (fieldX op), ⟨rfl, packFXI_of_inRow_low h rfl rfl⟩, rfl⟩,
    fun h => ⟨.ldVxDt (fieldX op), ⟨rfl, packFXI_of_inRow_low h rfl rfl⟩, rfl⟩,
    fun h => ⟨.ldVxKey (fieldX op), ⟨rfl, packFXI_of_inRow_low h rfl rfl⟩, rfl⟩,
    fun h => ⟨.ldDtVx (fieldX op), ⟨rfl, packFXI_of_inRow_low h rfl rfl⟩, rfl⟩,
    fun h => ⟨.ldStVx (fieldX op), ⟨rfl, packFXI_of_inRow_low h rfl rfl⟩, rfl⟩,
    fun h => ⟨.addI (fieldX op), ⟨rfl, packFXI_of_inRow_low h rfl rfl⟩, rfl⟩,
    fun h => ⟨.ldFont (fieldX op), ⟨rfl, packFXI_of_inRow_low h rfl rfl⟩, rfl⟩,
    fun h => ⟨.ldBcd (fieldX op), ⟨rfl, packFXI_of_inRow_low h rfl rfl⟩, rfl⟩,
    fun h => ⟨.stRegs (fieldX op), ⟨rfl, packFXI_of_inRow_low h rfl rfl⟩, rfl⟩,
    fun h => ⟨.ldRegs (fieldX op), ⟨rfl, packFXI_of_inRow_low h rfl rfl⟩, rfl⟩,
    fun _ h => absurd h List.not_mem_nil⟩

theorem rowOf_mem_opcodeRows (i : Instr) : rowOf i ∈ opcodeRows := by
  cases i <;> simp [rowOf, opcodeRows]

open Laws.EncodesInItsRow in
/-- The encoding of every instruction lies in the instruction's row. -/
theorem encode_inRow (i : Instr) : inRow (encode i) (rowOf i) = true :=
  Instr.rec (motive := Statement) cls ret jp call seImm sneImm seReg ldImm addImm ldReg orReg andReg xorReg addReg sub shr subn
    shl sneReg ldI jpV0 rnd drw skp sknp ldVxDt ldVxKey ldDtVx ldStVx addI ldFont ldBcd stRegs ldRegs i

/-- A word of a row decodes to an instruction of the row. -/
theorem decodeWord_of_inRow {op : Word} {r : Word × Word} (hr : r ∈ opcodeRows) (h : inRow op r = true) :
    ∃ i, decodeWord op = .ok i ∧ rowOf i = r := by
  obtain ⟨i, ⟨hwf, rfl⟩, hi⟩ := exists_encodes_of_inRow op r hr h
  exact ⟨i, decodeEncodeRoundTrip i hwf, hi⟩

theorem inRow_of_decodeWord {op : Word} {i : Instr} (h : decodeWord op = .ok i) : inRow op (rowOf i) = true :=
  (decodeWord_encodes h).2 ▸ encode_inRow i

/-- Settles O5: a word of a row decodes to an instruction of that very row, and a word decodes to one instruction alone, so it is
of one row at most. -/
theorem decoderIsTheOpcodeMap : Obligations.DecoderIsTheOpcodeMap := by
  refine ⟨fun op => ⟨?_, ?_⟩, fun op i h => ⟨rowOf_mem_opcodeRows i, inRow_of_decodeWord h⟩, ?_⟩
  · rintro ⟨i, h⟩
    exact ⟨rowOf i, rowOf_mem_opcodeRows i, inRow_of_decodeWord h⟩
  · rintro ⟨r, hr, h⟩
    obtain ⟨i, hi, -⟩ := decodeWord_of_inRow hr h
    exact ⟨i, hi⟩
  · intro op r r' hr hr' h h'
    obtain ⟨i, hi, rfl⟩ := decodeWord_of_inRow hr h
    obtain ⟨i', hi', rfl⟩ := decodeWord_of_inRow hr' h'
    rw [Except.ok.inj (hi.symm.trans hi')]

/-- Settles O1: the decoder is evaluated at each of the words. -/
theorem knownWordsDecode : Obligations.KnownWordsDecode := by
  unfold Obligations.KnownWordsDecode
  decide

end Sys2Proof
end

section
/-! PROOFS. What an instruction can do, said once: where it raises, the entry of its error; where it raises nothing, a change of
the state (`State.effect`) and the PC update of R72. The statements over every instruction are read off these two. -/

namespace Sys2Proof.Machine

open Sys2Proof.Safety

variable {s t : State} {i : Instr}

/-- What an instruction that raises nothing does to the state, its PC update apart (R80 to R135). -/
def State.effect (s : State) : Instr → State
  | .cls => s.setPx Display.blank
  | .ret => s.pop
  | .call _ => if h : s.sp.val < 16 then s.push (s.pc + 2) h else s
  | .jp _ | .jpV0 _ | .seImm _ _ | .sneImm _ _ | .seReg _ _ | .sneReg _ _ | .skp _ | .sknp _ => s
  | .ldImm x nn => s.setReg x nn
  | .addImm x nn => s.setReg x (s.reg x + nn)
  | .ldReg x y => s.setReg x (s.reg y)
  | .orReg x y => s.setReg x (s.reg x ||| s.reg y)
  | .andReg x y => s.setReg x (s.reg x &&& s.reg y)
  | .xorReg x y => s.setReg x (s.reg x ^^^ s.reg y)
  | .addReg x y => s.setRegFlag x (s.reg x + s.reg y) (carryOf (s.reg x) (s.reg y))
  | .sub x y => s.setRegFlag x (s.reg x - s.reg y) (greater (s.reg x) (s.reg y))
  | .shr x _ => s.setRegFlag x (s.reg x >>> 1) (lowBit (s.reg x))
  | .subn x y => s.setRegFlag x (s.reg y - s.reg x) (greater (s.reg y) (s.reg x))
  | .shl x _ => s.setRegFlag x (s.reg x <<< 1) (highBit (s.reg x))
  | .rnd x nn => s.nextDraw.setReg x (Config.randByte s.draws &&& nn)
  | .ldI nnn => s.setI (zextAddr nnn)
  | .addI x => s.setI (s.i + zextByte (s.reg x))
  | .ldFont x => s.setI (5 * zextByte (s.reg x))
  | .drw x y n => (s.setPx (s.px.xorAll (s.spriteAt x y n)).1).setReg regF (flagByte (s.px.xorAll (s.spriteAt x y n)).2)
  | .ldVxDt x => s.setReg x s.dt
  | .ldVxKey x => if s.latchValid then s.consumeKey.setReg x (BitVec.ofNat 8 s.lastKey.val) else s.park
  | .ldDtVx x => s.setDt (s.reg x)
  | .ldStVx x => s.setSt (s.reg x)
  | .ldBcd x => s.setMem (s.mem.writeBytes s.i.toNat (bcdDigits (s.reg x)))
  | .stRegs x => s.setMem (s.mem.writeBytes s.i.toNat (s.regBlock x))
  | .ldRegs x => s.setV (putRegs s.v 0 ((List.range (x.val + 1)).map fun k => s.mem.read (s.i.toNat + k)))

/-- A skip on a condition, as R72 writes its two cases. -/
theorem State.skipIf_eq_setPc (s : State) (c : Prop) [Decidable c] :
    s.skipIf (decide c) = s.setPc (if c then s.pc + 4 else s.pc + 2) := by
  by_cases h : c <;> simp [State.skipIf, h]

theorem State.skipIf_not_eq_setPc (s : State) (c : Prop) [Decidable c] :
    s.skipIf (decide (¬ c)) = s.setPc (if c then s.pc + 2 else s.pc + 4) := by
  by_cases h : c <;> simp [State.skipIf, h]

/-- An instruction that raises nothing: its effect and its PC update. -/
theorem exec_of_raises_none (h : raises s i = none) : exec i s = .next ((s.effect i).setPc (pcAfter s i)) := by
  cases i with
  | ret =>
    have hsp : s.sp.val ≠ 0 := by simpa [raises] using h
    exact execRet_ok hsp
  | call nnn =>
    have hne : s.sp.val ≠ 16 := by simpa [raises] using h
    have hsp : s.sp.val < 16 := by have := s.sp.isLt; omega
    rw [State.effect, dif_pos hsp]
    exact execCall_ok nnn hsp
  | drw x y n =>
    simp only [raises, ite_eq_right_iff, reduceCtorEq, imp_false] at h
    exact execDrw_ok x y (by omega)
  | ldBcd x => exact execLdBcd_ok x (by simpa [raises] using h)
  | stRegs x => exact execStRegs_ok x (by simpa [raises] using h)
  | ldRegs x => exact execLdRegs_ok x (by simpa [raises] using h)
  | seImm x nn => exact congrArg _ (s.skipIf_eq_setPc _)
  | seReg x y => exact congrArg _ (s.skipIf_eq_setPc _)
  | sneImm x nn => exact congrArg _ (s.skipIf_not_eq_setPc _)
  | sneReg x y => exact congrArg _ (s.skipIf_not_eq_setPc _)
  | sknp x =>
    simp only [exec, execSknp, State.effect, pcAfter, State.skipIf]
    cases s.key (keyOf (s.reg x)) <;> rfl
  | ldVxKey x =>
    simp only [exec, execLdVxKey, State.effect, pcAfter]
    cases s.latchValid <;> rfl
  | _ => rfl

/-- An instruction that raises: the entry of its error. -/
theorem exec_of_raises_some {k : FatalKind} (h : raises s i = some k) : exec i s = .next (s.raiseFatal k) := by
  cases i with
  | ret =>
    obtain ⟨hsp, rfl⟩ : s.sp.val = 0 ∧ FatalKind.stackUnderflow = k := by simpa [raises] using h
    exact execRet_error hsp
  | call nnn =>
    obtain ⟨hsp, rfl⟩ : s.sp.val = 16 ∧ FatalKind.stackOverflow = k := by simpa [raises] using h
    exact execCall_error nnn hsp
  | drw x y n =>
    obtain ⟨⟨hn, hi⟩, rfl⟩ : (1 ≤ n ∧ 4095 < s.i.toNat + n - 1) ∧ FatalKind.addressOutOfRange = k := by
      simpa [raises] using h
    exact execDrw_error x y (by omega) (by omega)
  | ldBcd x =>
    obtain ⟨hi, rfl⟩ : 4095 < s.i.toNat + 2 ∧ FatalKind.addressOutOfRange = k := by simpa [raises] using h
    exact execLdBcd_error x (by omega)
  | stRegs x =>
    obtain ⟨hi, rfl⟩ : 4095 < s.i.toNat + x.val ∧ FatalKind.addressOutOfRange = k := by simpa [raises] using h
    exact execStRegs_error x hi
  | ldRegs x =>
    obtain ⟨hi, rfl⟩ : 4095 < s.i.toNat + x.val ∧ FatalKind.addressOutOfRange = k := by simpa [raises] using h
    exact execLdRegs_error x hi
  | _ => exact nomatch h

/-- All an instruction can do. -/
theorem exec_cases (h : exec i s = .next t) :
    (∃ k, raises s i = some k ∧ t = s.raiseFatal k) ∨
    (raises s i = none ∧ t = (s.effect i).setPc (pcAfter s i)) := by
  cases hr : raises s i with
  | some k => rw [exec_of_raises_some hr] at h; cases h; exact .inl ⟨k, rfl, rfl⟩
  | none => rw [exec_of_raises_none hr] at h; cases h; exact .inr ⟨rfl, rfl⟩

/-- The state after an instruction that raises nothing. -/
theorem eq_of_exec (h : exec i s = .next t) (hr : raises s i = none) : t = (s.effect i).setPc (pcAfter s i) := by
  rw [exec_of_raises_none hr] at h; cases h; rfl

/-! ## What an effect leaves unchanged (R10 to R34) -/

theorem effect_i (hld : ∀ nnn, i ≠ .ldI nnn) (hadd : ∀ x, i ≠ .addI x ∧ i ≠ .ldFont x) : (s.effect i).i = s.i := by
  cases i with
  | ldI nnn => exact absurd rfl (hld nnn)
  | addI x => exact absurd rfl (hadd x).1
  | ldFont x => exact absurd rfl (hadd x).2
  | call _ | ldVxKey _ => simp only [State.effect]; split <;> rfl
  | _ => rfl

theorem effect_mem (h : ∀ x, i ≠ .ldBcd x ∧ i ≠ .stRegs x) : (s.effect i).mem = s.mem := by
  cases i with
  | ldBcd x => exact absurd rfl (h x).1
  | stRegs x => exact absurd rfl (h x).2
  | call _ | ldVxKey _ => simp only [State.effect]; split <;> rfl
  | _ => rfl

theorem effect_stack (hret : i ≠ .ret) (hcall : ∀ nnn, i ≠ .call nnn) :
    (s.effect i).sp = s.sp ∧ (s.effect i).stack = s.stack := by
  cases i with
  | ret => exact absurd rfl hret
  | call nnn => exact absurd rfl (hcall nnn)
  | ldVxKey x => simp only [State.effect]; split <;> exact ⟨rfl, rfl⟩
  | _ => exact ⟨rfl, rfl⟩

theorem effect_display (hcls : i ≠ .cls) (hdrw : ∀ x y n, i ≠ .drw x y n) :
    (s.effect i).px = s.px ∧ (s.effect i).dirty = s.dirty := by
  cases i with
  | cls => exact absurd rfl hcls
  | drw x y n => exact absurd rfl (hdrw x y n)
  | call _ | ldVxKey _ => simp only [State.effect]; split <;> exact ⟨rfl, rfl⟩
  | _ => exact ⟨rfl, rfl⟩

theorem effect_dt (h : ∀ x, i ≠ .ldDtVx x) : (s.effect i).dt = s.dt := by
  cases i with
  | ldDtVx x => exact absurd rfl (h x)
  | call _ | ldVxKey _ => simp only [State.effect]; split <;> rfl
  | _ => rfl

theorem effect_st (h : ∀ x, i ≠ .ldStVx x) : (s.effect i).st = s.st := by
  cases i with
  | ldStVx x => exact absurd rfl (h x)
  | call _ | ldVxKey _ => simp only [State.effect]; split <;> rfl
  | _ => rfl

theorem effect_wait (h : ∀ x, i ≠ .ldVxKey x) : sameWait s (s.effect i) := by
  cases i with
  | ldVxKey x => exact absurd rfl (h x)
  | call nnn => simp only [State.effect]; split <;> exact ⟨rfl, rfl⟩
  | _ => exact ⟨rfl, rfl⟩

/-- No effect reaches the host's side of the state. -/
theorem effect_hostSide (s : State) (i : Instr) : sameHostSide s (s.effect i) := by
  cases i with
  | call _ | ldVxKey _ => simp only [State.effect]; split <;> exact ⟨fun _ => rfl, rfl, rfl, rfl, rfl⟩
  | _ => exact ⟨fun _ => rfl, rfl, rfl, rfl, rfl⟩

theorem effect_draws (s : State) (i : Instr) : s.draws ≤ (s.effect i).draws := by
  cases i with
  | rnd x nn => exact Nat.le_succ _
  | call _ | ldVxKey _ => simp only [State.effect]; split <;> exact Nat.le_refl _
  | _ => exact Nat.le_refl _

/-! ## The registers (R10, R11) -/

/-- A register outside the destination and VF after a result with a flag. -/
theorem State.setRegFlag_reg_other (s : State) {x z : Reg} (hz : z ∉ [x, regF]) (b : Byte) (c : Bool) :
    (s.setRegFlag x b c).reg z = s.reg z := by
  simp only [List.mem_cons, List.not_mem_nil, or_false, not_or] at hz
  rw [State.setRegFlag, State.reg_setReg_ne _ hz.2, State.reg_setReg_ne _ hz.1]

theorem effect_regs (s : State) (i : Instr) : sameRegsExcept (destRegs i) s (s.effect i) := by
  intro z hz
  cases i with
  | ldImm x _ | addImm x _ | ldReg x _ | orReg x _ | andReg x _ | xorReg x _ | ldVxDt x =>
    exact s.reg_setReg_ne (List.ne_of_not_mem_cons hz) _
  | rnd x nn => exact s.nextDraw.reg_setReg_ne (List.ne_of_not_mem_cons hz) _
  | drw x y n => exact (s.setPx _).reg_setReg_ne (List.ne_of_not_mem_cons hz) _
  | addReg x y | sub x y | shr x y | subn x y | shl x y => exact s.setRegFlag_reg_other hz _ _
  | ldVxKey x =>
    simp only [State.effect]
    split
    · exact s.consumeKey.reg_setReg_ne (List.ne_of_not_mem_cons hz) _
    · rfl
  | ldRegs x =>
    have hzx : ¬ z ≤ x := by simpa [destRegs] using hz
    exact (putRegs_block s.v _ x z).trans (if_neg hzx)
  | call nnn => simp only [State.effect]; split <;> rfl
  | _ => rfl

/-- The flag writers end with a write of a flag to VF. -/
theorem effect_flag (h : writesFlag i = true) : ∃ c, (s.effect i).reg 15 = flagByte c := by
  cases i with
  | addReg x y | sub x y | shr x y | subn x y | shl x y => exact ⟨_, s.setRegFlag_reg_flag x _ _⟩
  | drw x y n => exact ⟨_, State.reg_setReg_same _ regF _⟩
  | _ => cases h

/-! ## The statements over every instruction -/

/-- Settles O11: an instruction ends in its effect or in the entry of its error, and so do the four cases of a Step. -/
theorem everyStepEnds : Obligations.EveryStepEnds := by
  have hexec (i : Instr) (s : State) : ∃ t, exec i s = .next t := by
    cases hr : raises s i with
    | some k => exact ⟨_, exec_of_raises_some hr⟩
    | none => exact ⟨_, exec_of_raises_none hr⟩
  refine ⟨hexec, fun s => ?_⟩
  cases he : s.err with
  | some k => exact ⟨_, step_halted he⟩
  | none =>
    cases hf : s.fetch with
    | error k => exact ⟨_, step_fetchError he hf⟩
    | ok op =>
      cases hd : decodeWord op with
      | ok i => rw [step_decoded he hf hd]; exact hexec i _
      | error r => exact ⟨_, step_unknown he hf hd⟩

/-- Settles O46: the entry of an error latches the kind listed, and no effect touches the latch. -/
theorem errorsAreExactlyThoseListed : Obligations.ErrorsAreExactlyThoseListed := by
  intro i s t hlive h
  rcases exec_cases h with ⟨k, hr, rfl⟩ | ⟨hr, rfl⟩
  · rw [hr, State.raiseFatal_err]
  · obtain ⟨-, -, -, herr, -⟩ := effect_hostSide s i
    rw [hr, State.setPc_err, herr, hlive]

/-- Settles O47: the PC update writes no register, so the frame is that of the effect. -/
theorem onlyDestinationRegistersChange : Obligations.OnlyDestinationRegistersChange := by
  intro i s t h hr
  rw [eq_of_exec h hr]
  exact effect_regs s i

/-- Settles O48: what a flag writer writes last is a flag, in VF, whatever its destination. -/
theorem flagIsZeroOrOne : Obligations.FlagIsZeroOrOne := by
  intro i s t hw h hr
  obtain ⟨c, hc⟩ := effect_flag (s := s) hw
  rw [eq_of_exec h hr, State.setPc_reg, hc]
  exact flagByte_zero_or_one c

/-- Settles O49: the PC update touches none of these parts, so each clause is the frame of the effect on its part. -/
theorem whoWritesWhat : Obligations.WhoWritesWhat := by
  intro i s t h hr
  obtain rfl := eq_of_exec h hr
  refine ⟨effect_i, fun hm a => ?_, fun hret hcall => ?_, fun hcls hdrw => ?_, effect_dt, effect_st, effect_wait,
    effect_hostSide s i, effect_draws s i⟩
  · rw [State.setPc_mem, effect_mem hm]
  · obtain ⟨hsp, hstack⟩ := effect_stack (s := s) hret hcall
    exact ⟨hsp, fun k => by rw [State.setPc_stack, hstack]⟩
  · obtain ⟨hpx, hdirty⟩ := effect_display (s := s) hcls hdrw
    exact ⟨fun x y => by rw [State.setPc_px, hpx], hdirty⟩

/-- Settles O50: the PC update of every instruction is the one of R72. -/
theorem pcFollowsOneOfFourCases : Obligations.PcFollowsOneOfFourCases := by
  intro i s t h hr
  rw [eq_of_exec h hr, State.setPc_pc]

end Sys2Proof.Machine
end

section
/-! PROOFS. The invariant of the machine (`Safety.Inv`): every part of it is kept by the effect and the PC update of an
instruction, so by a Step, by every host move, and by every run. -/

namespace Sys2Proof.Machine

open Sys2Proof.Safety

variable {s t : State} {i : Instr}

/-- Every valid return address is at most 0x1000 (R82: the address behind the last word of memory). -/
def State.returnsInReach (s : State) : Prop := ∀ k : Fin 16, k.val < s.sp.val → (s.stack.get k).toNat ≤ 0x1000

theorem State.toNat_pc_add_two (h : s.pc.toNat + 1 < 4096) : (s.pc + 2).toNat = s.pc.toNat + 2 := by
  rw [BitVec.toNat_add]; exact Nat.mod_eq_of_lt (show s.pc.toNat + 2 < 65536 by omega)

theorem State.toNat_pc_add_four (h : s.pc.toNat + 1 < 4096) : (s.pc + 4).toNat = s.pc.toNat + 4 := by
  rw [BitVec.toNat_add]; exact Nat.mod_eq_of_lt (show s.pc.toNat + 4 < 65536 by omega)

theorem State.toNat_top_le (hret : s.returnsInReach) (hsp : s.sp.val ≠ 0) : s.top.toNat ≤ 0x1000 :=
  hret _ (show s.sp.val - 1 < s.sp.val by omega)

/-- The reach of the PC update: past a fetched instruction, a 12-bit target, a 12-bit target plus a byte, or a return address
(R72). -/
theorem toNat_pcAfter_le (hpc : s.pc.toNat + 1 < 4096) (hret : s.returnsInReach) (hr : raises s i = none) :
    (pcAfter s i).toNat ≤ 0x10FE := by
  have htwo := State.toNat_pc_add_two hpc
  have hfour := State.toNat_pc_add_four hpc
  cases i with
  | jp nnn | call nnn =>
    have := nnn.isLt
    rw [pcAfter, toNat_zextAddr]; omega
  | jpV0 nnn =>
    have := nnn.isLt
    have := (s.reg 0).isLt
    rw [pcAfter, toNat_zextAddr_add_zextByte]; omega
  | ret =>
    have hsp : s.sp.val ≠ 0 := by simpa [raises] using hr
    exact (State.toNat_top_le hret hsp).trans (by decide)
  | seImm _ _ | sneImm _ _ | seReg _ _ | sneReg _ _ | skp _ | sknp _ | ldVxKey _ => rw [pcAfter]; split <;> omega
  | _ => exact htwo.le.trans (by omega)

/-- CALL pushes the address behind a fetched instruction; RET and the rest leave the valid entries as they are. -/
theorem effect_returnsInReach (hpc : s.pc.toNat + 1 < 4096) (hret : s.returnsInReach) :
    (s.effect i).returnsInReach := by
  by_cases hc : i = .ret ∨ ∃ nnn, i = .call nnn
  · rcases hc with rfl | ⟨nnn, rfl⟩
    · intro k hk
      exact hret k (Nat.lt_of_lt_of_le hk (Nat.sub_le _ _))
    · intro k hk
      simp only [State.effect] at hk ⊢
      split at hk
      · next hsp =>
        rw [dif_pos hsp, State.push_stack, Vector.get_eq_getElem, Vector.getElem_set]
        split
        · rw [State.toNat_pc_add_two hpc]; omega
        · exact hret k (by simp only [State.push_sp] at hk; omega)
      · next hsp => rw [dif_neg hsp]; exact hret k hk
  · push Not at hc
    obtain ⟨hsp, hstack⟩ := effect_stack (s := s) hc.1 hc.2
    rw [State.returnsInReach, hsp, hstack]
    exact hret

theorem effect_mem_wf (hwf : s.mem.wf = true) (hr : raises s i = none) : (s.effect i).mem.wf = true := by
  by_cases hc : ∃ x, i = .ldBcd x ∨ i = .stRegs x
  · obtain ⟨x, rfl | rfl⟩ := hc
    · have hi : s.i.toNat ≤ 4093 := by simpa [raises] using hr
      exact Memory.wf_writeBytes (by rw [length_bcdDigits]; omega) hwf
    · have hi : s.i.toNat + x.val ≤ 4095 := by simpa [raises] using hr
      exact Memory.wf_writeBytes (by rw [State.length_regBlock]; omega) hwf
  · push Not at hc
    rw [effect_mem hc]
    exact hwf

/-- Where only an FX0A may find the engine waiting, an engine that waits after an instruction was parked by an FX0A, which leaves
PC and memory as they were (R133, R137). -/
theorem fetch_of_effect_awaiting (hidle : (∀ x, i ≠ .ldVxKey x) → s.awaiting = false)
    (hw : (s.effect i).awaiting = true) :
    (∃ x, i = .ldVxKey x) ∧ ((s.effect i).setPc (pcAfter s i)).fetch = s.fetch := by
  by_cases hc : ∃ x, i = .ldVxKey x
  · refine ⟨hc, ?_⟩
    obtain ⟨x, rfl⟩ := hc
    cases hl : s.latchValid with
    | true => simp [State.effect, hl] at hw
    | false => simp only [State.effect, pcAfter, hl]; rfl
  · push Not at hc
    rw [(effect_wait hc).1, hidle hc] at hw
    cases hw

/-- An instruction keeps the invariant of the running engine that fetched it. -/
theorem exec_keeps_inv {op : Word} (hinv : Inv s) (hlive : s.err = none) (hrun : s.phase = .running) (hf : s.fetch = .ok op)
    (hd : decodeWord op = .ok i) (h : exec i s = .next t) : Inv t := by
  rcases exec_cases h with ⟨k, -, rfl⟩ | ⟨hr, rfl⟩
  · exact Inv_raiseFatal s k
  obtain ⟨hwf, hparked, hreach, -⟩ := hinv
  have hpc := State.pc_of_fetch_ok hf
  obtain ⟨-, hret⟩ := hreach hlive
  have hidle (hi : ∀ x, i ≠ .ldVxKey x) : s.awaiting = false := by
    by_contra hw
    obtain ⟨op', x, hf', hd'⟩ := hparked hlive (Bool.eq_true_of_not_eq_false hw)
    cases hf.symm.trans hf'
    exact hi x (Except.ok.inj (hd.symm.trans hd'))
  refine ⟨effect_mem_wf hwf hr, fun _ hw => ?_, fun _ => ⟨toNat_pcAfter_le hpc hret hr, effect_returnsInReach hpc hret⟩,
    fun _ _ => ?_⟩
  · obtain ⟨⟨x, rfl⟩, hfetch⟩ := fetch_of_effect_awaiting hidle hw
    exact ⟨op, x, hfetch.trans hf, hd⟩
  · obtain ⟨-, -, -, -, hphase⟩ := effect_hostSide s i
    exact hphase.trans hrun

/-- The Step's write of the ghost phase keeps the invariant. -/
theorem inv_setPhase_running (h : Inv s) : Inv (s.setPhase .running) := by
  obtain ⟨hwf, hparked, hreach, -⟩ := h
  exact ⟨hwf, hparked, hreach, fun _ _ => rfl⟩

/-- A skipped word keeps the invariant: an engine that fetches no FX0A is not parked (R74). -/
theorem advance_keeps_inv {op : Word} {r : Reject} (hinv : Inv s) (hf : s.fetch = .ok op) (hd : decodeWord op = .error r) :
    Inv s.advance := by
  obtain ⟨hwf, hparked, hreach, hwait⟩ := hinv
  have hpc := State.pc_of_fetch_ok hf
  refine ⟨hwf, fun hlive hw => ?_, fun hlive => ⟨?_, (hreach hlive).2⟩, hwait⟩
  · obtain ⟨op', x, hf', hd'⟩ := hparked hlive hw
    cases hf.symm.trans hf'
    cases hd.symm.trans hd'
  · rw [State.advance_pc, State.toNat_pc_add_two hpc]; omega

/-- Settles O52: a Step of a halted machine changes nothing, a failing fetch raises, and the other two cases keep the invariant
from the running state they start in. -/
theorem stepKeepsTheInvariant : Obligations.StepKeepsTheInvariant := by
  intro s t hinv h
  have hinv' := inv_setPhase_running hinv
  rcases step_cases h with ⟨k, -, rfl⟩ | ⟨k, -, -, rfl⟩ | ⟨op, i, hlive, hf, hd, hx⟩ | ⟨op, r, -, hf, hd, rfl⟩
  · exact hinv
  · exact Inv_raiseFatal _ k
  · exact exec_keeps_inv hinv' hlive rfl hf hd hx
  · exact advance_keeps_inv hinv' hf hd

/-- Settles O51: reset lists no memory, waits for nothing, has no return address, and its PC is 0x200. -/
theorem resetMeetsTheInvariant : Obligations.ResetMeetsTheInvariant :=
  ⟨rfl, fun _ hw => (nomatch hw), fun _ => ⟨by decide, fun _ hk => absurd hk (Nat.not_lt_zero _)⟩, fun _ hw => (nomatch hw)⟩

/-! ## The host's moves -/

/-- Load keeps the invariant: a Fresh engine does not wait, and the program lies in memory (R52, R53). -/
theorem load_keeps_inv {bytes : List Byte} (hinv : Inv s) (hfresh : s.phase = .fresh) : Inv (s.load bytes) := by
  unfold State.load
  split
  · next hlen =>
    obtain ⟨hwf, -, hreach, hwait⟩ := hinv
    have hidle (hlive : s.err = none) (hw : s.awaiting = true) : False := by
      cases hfresh.symm.trans (hwait hlive hw)
    simp only [Config.maxRom] at hlen
    exact ⟨Memory.wf_writeBytes (by simp only [Config.progBase]; omega) hwf, fun hlive hw => (hidle hlive hw).elim, hreach,
      fun hlive hw => (hidle hlive hw).elim⟩
  · exact Inv_raiseFatal s _

/-- A host move other than Reset that ends has found the machine live. -/
theorem State.eq_of_unlessHalted {u : State} (h : s.unlessHalted u = .next t) : s.err = none ∧ t = u := by
  unfold State.unlessHalted State.halted at h
  split at h
  · cases h
  · next hh => cases h; exact ⟨by simpa using hh, rfl⟩

theorem keyDown_keeps_inv (k : Key) (hinv : Inv s) : Inv (s.keyDown k) := by
  unfold State.keyDown
  split
  · exact hinv
  · exact Inv_congr hinv rfl rfl rfl rfl rfl rfl rfl

/-- Every move keeps the invariant. -/
theorem move_keeps_inv {m : Move} (hinv : Inv s) (h : move s m = .next t) : Inv t := by
  cases m with
  | step => exact stepKeepsTheInvariant s t hinv h
  | reset =>
    cases h
    exact Inv_congr resetMeetsTheInvariant rfl rfl rfl rfl rfl rfl rfl
  | load bytes =>
    simp only [move] at h
    split at h
    · cases h
    split at h
    · next hfresh => cases h; exact load_keeps_inv hinv hfresh
    · cases h
  | keyDown k =>
    obtain ⟨-, rfl⟩ := State.eq_of_unlessHalted h
    exact keyDown_keeps_inv k hinv
  | tick | keyUp _ | clearDirty | ackToneEnd =>
    obtain ⟨-, rfl⟩ := State.eq_of_unlessHalted h
    exact Inv_congr hinv rfl rfl rfl rfl rfl rfl rfl

/-- A run of a move and more: the move ends and the rest is a run. -/
theorem runMoves_cons {m : Move} {ms : List Move} (h : runMoves s (m :: ms) = .next t) :
    ∃ u, move s m = .next u ∧ runMoves u ms = .next t := by
  unfold runMoves at h
  split at h
  · next u hu => exact ⟨u, hu, h⟩
  · cases h
  · cases h

/-- Settles O53: by induction on the moves. -/
theorem everyRunKeepsTheInvariant : Obligations.EveryRunKeepsTheInvariant := by
  intro ms
  induction ms with
  | nil => intro s t hinv h; cases h; exact hinv
  | cons m ms ih =>
    intro s t hinv h
    obtain ⟨u, hu, hrest⟩ := runMoves_cons h
    exact ih u t (move_keeps_inv hinv hu) hrest

/-! ## Only Reset leaves a fatal error (R147, R171) -/

/-- A move of a halted machine that ends is a Reset or changes nothing. -/
theorem move_halted {m : Move} {k : FatalKind} (he : s.err = some k) (hm : m ≠ .reset) (h : move s m = .next t) : t = s := by
  have hlive (h' : s.err = none) : t = s := by cases he.symm.trans h'
  cases m with
  | step => exact Host.Outcome.next.inj (h.symm.trans (step_halted he))
  | reset => exact absurd rfl hm
  | load bytes => simp [move, State.halted, he] at h
  | tick | keyDown _ | keyUp _ | clearDirty | ackToneEnd => exact hlive (State.eq_of_unlessHalted h).1

/-- Settles O54: by induction on the moves, none of which is a Reset. -/
theorem onlyResetClearsAnError : Obligations.OnlyResetClearsAnError := by
  intro ms
  induction ms with
  | nil => intro s t k he _ h; cases h; exact ⟨he, rfl⟩
  | cons m ms ih =>
    intro s t k he hms h
    obtain ⟨u, hu, hrest⟩ := runMoves_cons h
    obtain rfl := move_halted he (List.ne_of_not_mem_cons hms).symm hu
    exact ih u t k he (List.not_mem_of_not_mem_cons hms) hrest

end Sys2Proof.Machine
end

section
/-! PROOFS. The Step (spec/30_encoding.md R71; spec/20_memory.md R46; spec/60_exceptions.md R145, R147): which instruction it runs,
and the Steps that leave a state as it is. -/

namespace Sys2Proof.Machine

open Sys2Proof.Safety

variable {s t : State}

/-! A write of the value that is there already changes nothing. -/

theorem State.setPhase_same {p : Phase} (h : s.phase = p) : s.setPhase p = s := by subst h; rfl

theorem State.setPc_same {w : Word} (h : s.pc = w) : s.setPc w = s := by subst h; rfl

/-! ## What a Step reports -/

theorem stepReports_halted {k : FatalKind} (h : s.err = some k) : stepReports s = false := by
  simp [stepReports, State.reportsUnknown, State.halted, h]

theorem stepReports_fetchError {k : FatalKind} (h : s.err = none) (hf : s.fetch = .error k) : stepReports s = false := by
  simp [stepReports, State.reportsUnknown, State.halted, h, hf]

theorem stepReports_decoded {op : Word} {i : Instr} (h : s.err = none) (hf : s.fetch = .ok op) (hd : decodeWord op = .ok i) :
    stepReports s = false := by
  simp [stepReports, State.reportsUnknown, State.halted, h, hf, hd]

/-- Settles O7: the two bytes at PC are the fetched word, and the word decodes. -/
theorem stepRunsTheDecodedInstruction : Obligations.StepRunsTheDecodedInstruction := by
  intro s op i hlive hpc hop hd
  have hf : s.fetch = .ok op := State.fetch_eq_ok_of_toNat hpc hop
  exact ⟨step_decoded hlive hf hd, stepReports_decoded hlive hf hd⟩

/-- Settles O9: the byte at PC + 1 does not exist, so the fetch raises. -/
theorem fetchAboveMemoryRaises : Obligations.FetchAboveMemoryRaises := by
  intro s hlive hpc
  have hf : s.fetch = .error .addressOutOfRange := State.fetch_error (by omega)
  exact ⟨stepReports_fetchError hlive hf, _, step_fetchError hlive hf, State.raiseFatal_err _ _⟩

/-! ## Steps that change nothing -/

theorem core_run_succ {s t : Sys2Proof.core.State} (h : Sys2Proof.core.step s = .next t) (n : Nat) :
    Sys2Proof.core.run (n + 1) s = Sys2Proof.core.run n t := by
  rw [Host.Core.run, h]

/-- A state that a Step leaves as it is stays so for any number of Steps. -/
theorem core_run_of_step_self (h : step s = .next s) : ∀ n, Sys2Proof.core.run n s = .next s
  | 0 => rfl
  | n + 1 => (core_run_succ h n).trans (core_run_of_step_self h n)

/-- Settles O10: a Step of a halted machine is none. -/
theorem haltedStepsDoNothing : Obligations.HaltedStepsDoNothing := by
  intro s k n he
  exact ⟨core_run_of_step_self (step_halted he) n, stepReports_halted he⟩

/-- Settles O19: the Step writes the phase and the PC that are there already. -/
theorem selfJumpChangesNothing : Obligations.SelfJumpChangesNothing := by
  intro s op nnn hlive hphase hf hd hpc
  have htarget : s.pc = zextAddr nnn := BitVec.eq_of_toNat_eq (hpc.trans (toNat_zextAddr nnn).symm)
  calc step s = exec (.jp nnn) (s.setPhase .running) := step_decoded hlive hf hd
    _ = .next (s.setPc (zextAddr nnn)) := by rw [State.setPhase_same hphase]; rfl
    _ = .next s := by rw [State.setPc_same htarget]

/-! ## The placing aid (log entry 23) -/

theorem tableWord_toNat (op : Word) : tableWord 16 op.toNat = op := by
  rw [tableWord, Nat.mod_eq_of_lt op.isLt, BitVec.ofNat_toNat, BitVec.setWidth_eq]

/-- A placed word lies in memory. -/
theorem State.placeWord_pc_lt (s : State) (op : Word) : (s.placeWord op).pc.toNat + 1 < 4096 := by
  by_cases h : s.pc.toNat < Config.memSize - 1
  · simp only [State.placeWord, if_pos h]
    exact Nat.add_lt_of_lt_sub h
  · simp only [State.placeWord, if_neg h]
    decide

/-- A placed word is written at the PC it leaves. -/
theorem State.placeWord_mem (s : State) (op : Word) :
    (s.placeWord op).mem = s.mem.writeBytes (s.placeWord op).pc.toNat [highByte op, lowByte op] := by
  simp only [State.placeWord]
  split <;> rfl

/-- A placed word is the one fetched. -/
theorem State.fetch_placeWord (hwf : s.mem.wf = true) (op : Word) : (s.placeWord op).fetch = .ok op := by
  have hpc := s.placeWord_pc_lt op
  have hin : (s.placeWord op).pc.toNat + [highByte op, lowByte op].length ≤ 4096 := hpc
  have hhi := Memory.read_writeBytes_inside (k := 0) hin hwf (by simp)
  have hlo := Memory.read_writeBytes_inside (k := 1) hin hwf (by simp)
  rw [← State.placeWord_mem] at hhi hlo
  rw [State.fetch_ok hpc, ← Nat.add_zero (State.pc _).toNat, hhi, Nat.add_zero, hlo]
  exact congrArg _ (wordOfBytes_split op)

/-- Settles O12: the placed word is fetched, and the encoding of a well-formed instruction decodes to it. -/
theorem placedInstructionIsRun : Obligations.PlacedInstructionIsRun := by
  intro s i hwf hi
  rw [State.withFetchWord, tableWord_toNat]
  exact step_decoded rfl (State.fetch_placeWord hwf _) (decodeEncodeRoundTrip i hi)

/-! ## Counters (R158) -/

/-- Settles O55: a Step that raises nothing has the effect of the instruction it fetched, and only the two named effects touch
a counter. -/
theorem stepsDoNotTick : Obligations.StepsDoNotTick := by
  intro s t hlive h hend
  rcases step_cases h with ⟨k, -, rfl⟩ | ⟨k, -, -, rfl⟩ | ⟨op, i, -, hf, hd, hx⟩ | ⟨op, r, -, -, -, rfl⟩
  · exact ⟨rfl, absurd rfl, absurd rfl⟩
  · cases hend
  · rcases exec_cases hx with ⟨k, -, rfl⟩ | ⟨-, rfl⟩
    · cases hend
    obtain ⟨-, -, htone, -⟩ := effect_hostSide (s.setPhase .running) i
    refine ⟨htone, fun hdt => ?_, fun hst => ?_⟩
    · by_cases hi : ∃ x, i = .ldDtVx x
      · obtain ⟨x, rfl⟩ := hi
        exact ⟨op, x, hf, hd, rfl⟩
      · exact absurd (effect_dt (not_exists.1 hi)) hdt
    · by_cases hi : ∃ x, i = .ldStVx x
      · obtain ⟨x, rfl⟩ := hi
        exact ⟨op, x, hf, hd, rfl⟩
      · exact absurd (effect_st (not_exists.1 hi)) hst
  · exact ⟨rfl, absurd rfl, absurd rfl⟩

end Sys2Proof.Machine
end

section
/-! PROOFS. The call stack (spec/40_control_flow.md R80, R82): a push and a pop touch the depth and one entry alone, and a pop
after a push gives the pushed entry. -/

namespace Sys2Proof.Machine

open Sys2Proof.Safety

variable {s : State}

theorem State.push_stack_get (w : Word) (h : s.sp.val < 16) (j : Fin 16) :
    (s.push w h).stack.get j = if j.val = s.sp.val then w else s.stack.get j := by
  simp only [State.push_stack, Vector.get_eq_getElem, Vector.getElem_set, eq_comm]

/-- The entry just pushed is on top. -/
theorem State.top_push (w : Word) (h : s.sp.val < 16) : (s.push w h).top = w :=
  (State.push_stack_get w h ⟨s.sp.val, h⟩).trans (if_pos rfl)

/-- The top entry of a stack of known depth. -/
theorem State.top_eq {k : Fin 16} (h : s.sp.val = k.val + 1) : s.top = s.stack.get k := by
  rw [State.top]
  exact congrArg _ (Fin.ext (by simp [h]))

/-- Settles O16: with an entry RET is a pop and a write of PC. -/
theorem returnPopsIntoPc : Obligations.ReturnPopsIntoPc := by
  intro s
  constructor
  · intro hsp
    exact ⟨_, execRet_error hsp, State.raiseFatal_err s _⟩
  · intro k hsp
    refine ⟨_, execRet_ok (by omega), by simp [hsp], State.top_eq hsp, fun _ => rfl, fun _ => rfl, rfl, fun _ => rfl, ?_⟩
    simp [sameDisplay, sameTimers, sameWait, sameHostSide]

/-- Settles O17: with room CALL is a push and a write of PC. -/
theorem callPushesTheReturnAddress : Obligations.CallPushesTheReturnAddress := by
  intro s nnn
  constructor
  · intro hsp
    exact ⟨_, execCall_error nnn hsp, State.raiseFatal_err s _⟩
  · intro k hsp
    have hroom : s.sp.val < 16 := hsp ▸ k.isLt
    refine ⟨_, execCall_ok nnn hroom, congrArg (· + 1) hsp, ?_, toNat_zextAddr nnn, fun j hj => ?_, fun _ => rfl, rfl,
      fun _ => rfl, ?_⟩
    · exact (State.push_stack_get _ hroom k).trans (if_pos hsp.symm)
    · exact (State.push_stack_get _ hroom j).trans (if_neg fun hc => hj (Fin.ext (hc.trans hsp)))
    · simp [sameDisplay, sameTimers, sameWait, sameHostSide]

/-- Settles O18: the pop gives back the entry and the depth of the push, and no entry below the top was touched. -/
theorem callThenReturnComesBack : Obligations.CallThenReturnComesBack := by
  intro s nnn hsp
  refine ⟨_, _, execCall_ok nnn hsp, execRet_ok (Nat.succ_ne_zero _), State.top_push _ hsp, rfl, fun k hk => ?_,
    fun _ => rfl, fun _ => rfl⟩
  exact (State.push_stack_get _ hsp k).trans (if_neg hk.ne)

end Sys2Proof.Machine
end

section
/-! PROOFS. Arithmetic with a flag, shifts and the free byte (spec/41_register_alu.md R96 to R101, R105): each is one write of a
result and a flag, so what is left is the numbers the two stand for. -/

namespace Sys2Proof.Machine

open Sys2Proof.Safety

variable {s : State}

/-- What an instruction that writes a result and then a flag, and goes on, leaves (R73 b): the result where X is not F, the flag
in VF, PC past the instruction, and all else as it was. -/
theorem State.setRegFlag_advance_spec (s : State) (x : Reg) (b : Byte) (c : Bool) :
    (x ≠ 15 → (s.setRegFlag x b c).advance.reg x = b) ∧ (s.setRegFlag x b c).advance.reg 15 = flagByte c ∧
      (s.setRegFlag x b c).advance.pc = s.pc + 2 ∧ onlyRegs [x, 15] s (s.setRegFlag x b c).advance :=
  ⟨fun hx => s.setRegFlag_reg_ne hx b c, s.setRegFlag_reg_flag x b c, rfl, onlyRegs_setRegFlag s x b c⟩

/-- The value of a flag that decides a comparison. -/
theorem toNat_flagByte_decide (c : Prop) [Decidable c] : (flagByte (decide c)).toNat = if c then 1 else 0 := by
  rw [toNat_flagByte]
  exact if_congr decide_eq_true_iff rfl rfl

/-- The difference of two bytes is the difference of their values modulo 256 (R97, R99). -/
theorem toNat_sub_byte (a b : Byte) : ((a - b).toNat : Int) = (a.toNat - b.toNat) % 256 := by
  have ha := a.isLt
  have hb := b.isLt
  rw [BitVec.toNat_sub]
  omega

theorem toNat_lowBit (b : Byte) : (flagByte (lowBit b)).toNat = b.toNat % 2 := by
  rw [lowBit, BitVec.getLsbD, Nat.testBit_zero, toNat_flagByte_decide]
  split <;> omega

theorem toNat_highBit (b : Byte) : (flagByte (highBit b)).toNat = b.toNat / 128 := by
  have hb := b.isLt
  rw [highBit, BitVec.getLsbD, Nat.testBit_eq_decide_div_mod_eq, toNat_flagByte_decide]
  split <;> omega

/-- Settles O23: the carry is an exact sum above 255. -/
theorem addRegisters : Obligations.AddRegisters := by
  intro s x y
  obtain ⟨hres, hflag, hpc, hframe⟩ :=
    s.setRegFlag_advance_spec x (s.reg x + s.reg y) (carryOf (s.reg x) (s.reg y))
  refine ⟨_, rfl, fun hx => ?_, ?_, hpc, hframe⟩
  · rw [hres hx, BitVec.toNat_add]
  · rw [hflag, carryOf, toNat_flagByte_decide]

/-- Settles O24: one difference and one comparison, the operands exchanged for SUBN. -/
theorem subtractRegisters : Obligations.SubtractRegisters := by
  intro s x y
  constructor
  · obtain ⟨hres, hflag, hpc, hframe⟩ :=
      s.setRegFlag_advance_spec x (s.reg x - s.reg y) (greater (s.reg x) (s.reg y))
    refine ⟨_, rfl, fun hx => ?_, ?_, hpc, hframe⟩
    · rw [hres hx, toNat_sub_byte]
    · rw [hflag, greater, toNat_flagByte_decide]
  · obtain ⟨hres, hflag, hpc, hframe⟩ :=
      s.setRegFlag_advance_spec x (s.reg y - s.reg x) (greater (s.reg y) (s.reg x))
    refine ⟨_, rfl, fun hx => ?_, ?_, hpc, hframe⟩
    · rw [hres hx, toNat_sub_byte]
    · rw [hflag, greater, toNat_flagByte_decide]

/-- Settles O25: SHR halves the value and gives its remainder, SHL doubles it modulo 256 and gives what leaves the byte. -/
theorem shiftsByOne : Obligations.ShiftsByOne := by
  intro s x y
  constructor
  · obtain ⟨hres, hflag, hpc, hframe⟩ := s.setRegFlag_advance_spec x (s.reg x >>> 1) (lowBit (s.reg x))
    refine ⟨_, rfl, fun hx => ?_, ?_, hpc, hframe⟩
    · rw [hres hx, BitVec.toNat_ushiftRight, Nat.shiftRight_one]
    · rw [hflag, toNat_lowBit]
  · obtain ⟨hres, hflag, hpc, hframe⟩ := s.setRegFlag_advance_spec x (s.reg x <<< 1) (highBit (s.reg x))
    refine ⟨_, rfl, fun hx => ?_, ?_, hpc, hframe⟩
    · rw [hres hx, BitVec.toNat_shiftLeft, Nat.shiftLeft_eq, Nat.mul_comm]
    · rw [hflag, toNat_highBit]

/-- Settles O26: one write of V[X], and the draw counter alone besides. -/
theorem randomIsAMaskedFreeByte : Obligations.RandomIsAMaskedFreeByte := by
  intro s x nn
  refine ⟨_, rfl, fun k _ => ?_, rfl, rfl, onlyRegs_setReg s.nextDraw x _⟩
  rw [State.setReg_advance_reg_same, BitVec.getLsbD_and]

end Sys2Proof.Machine
end

section
/-! PROOFS. Stores of a block of bytes from I on (spec/42_index_memory.md R113 to R115; spec/20_memory.md R47, R60): each is one
write of the memory behind a PC that has moved on, so what is left is the bytes the memory holds then. -/

namespace Sys2Proof.Machine

open Sys2Proof.Safety

variable {s : State}

/-- A write of the memory that goes on to the next instruction leaves everything else as it was. -/
theorem advance_setMem_frame (s : State) (m : Memory) :
    (s.advance.setMem m).pc = s.pc + 2 ∧ sameRegs s (s.advance.setMem m) ∧ (s.advance.setMem m).i = s.i ∧
      sameStack s (s.advance.setMem m) ∧ sameDisplay s (s.advance.setMem m) ∧ sameTimers s (s.advance.setMem m) ∧
      sameWait s (s.advance.setMem m) ∧ sameHostSide s (s.advance.setMem m) := by
  refine ⟨rfl, fun _ => rfl, rfl, ?_⟩
  simp [sameStack, sameDisplay, sameTimers, sameWait, sameHostSide]

/-- A digit of a byte fits a byte. -/
theorem toNat_ofNat_of_le (b : Byte) {n : Nat} (h : n ≤ b.toNat) : (BitVec.ofNat 8 n).toNat = n :=
  Nat.mod_eq_of_lt (h.trans_lt b.isLt)

/-- Settles O28: where the three digits fit they are written, and where they do not the store raises. -/
theorem bcdStoresThreeDigits : Obligations.BcdStoresThreeDigits := by
  intro s x hwf
  constructor
  · intro hi
    have hin : s.i.toNat + (bcdDigits (s.reg x)).length ≤ 4096 := by rw [length_bcdDigits]; omega
    have hread (k : Nat) (hk : k < 3) := Memory.read_writeBytes_inside (k := k) hin hwf hk
    refine ⟨_, execLdBcd_ok x hi, ?_, ?_, ?_, fun b hb => Memory.read_writeBytes_outside hin hwf hb,
      advance_setMem_frame s _⟩
    · exact (congrArg _ (hread 0 (by decide))).trans (toNat_ofNat_of_le (s.reg x) (by omega))
    · exact (congrArg _ (hread 1 (by decide))).trans (toNat_ofNat_of_le (s.reg x) (by omega))
    · exact (congrArg _ (hread 2 (by decide))).trans (toNat_ofNat_of_le (s.reg x) (by omega))
  · intro hi
    exact ⟨_, execLdBcd_error x hi, State.raiseFatal_err s _⟩

/-- The register block of R115 where it was stored. -/
theorem Memory.read_writeBytes_regBlock {x z : Reg} (hwf : s.mem.wf = true) (hi : s.i.toNat + x.val ≤ 4095) (hz : z ≤ x) :
    (s.mem.writeBytes s.i.toNat (s.regBlock x)).read (s.i.toNat + z.val) = s.reg z := by
  have hlen := State.length_regBlock (s := s) x
  have hlt : z.val < (s.regBlock x).length := by have : z.val ≤ x.val := hz; omega
  rw [Memory.read_writeBytes_inside (by omega) hwf hlt]
  exact Option.some.inj ((List.getElem?_eq_getElem hlt).symm.trans (State.getElem?_regBlock x z hz))

/-- Settles O29: where the block fits it is written, and where it does not the store raises. -/
theorem storeRegisters : Obligations.StoreRegisters := by
  intro s x hwf
  have hlen := State.length_regBlock (s := s) x
  constructor
  · intro hi
    exact ⟨_, execStRegs_ok x hi, fun z hz => Memory.read_writeBytes_regBlock hwf hi hz,
      fun b hb => Memory.read_writeBytes_outside (by omega) hwf (by rwa [hlen]), advance_setMem_frame s _⟩
  · intro hi
    exact ⟨_, execStRegs_error x hi, State.raiseFatal_err s _⟩

/-- Settles O31: LD_REGS reads from the same I the bytes that ST_REGS left there. -/
theorem storeThenLoadGivesTheRegistersBack : Obligations.StoreThenLoadGivesTheRegistersBack := by
  intro s t w x hwf hi h hmem hwi
  obtain rfl : s.advance.setMem _ = t := Host.Outcome.next.inj ((execStRegs_ok x hi).symm.trans h)
  have hwi' : w.i = s.i := hwi
  refine ⟨_, execLdRegs_ok x (by rwa [hwi']), fun z => ?_, hwi', rfl⟩
  rw [State.setV_advance_reg, putRegs_block, ← State.reg_def]
  refine if_ctx_congr Iff.rfl (fun hz => ?_) fun _ => rfl
  rw [hwi', hmem]
  exact Memory.read_writeBytes_regBlock hwf hi hz

/-- Settles O32: PC + 2 is the address of the first byte stored, so the two bytes fetched are V[0] and V[1]. -/
theorem storedWordIsFetchedNext : Obligations.StoredWordIsFetchedNext := by
  intro s x hwf hx hipc hpc
  have hi : s.i.toNat = s.pc.toNat + 2 := by rw [hipc, State.toNat_pc_add_two (by omega)]
  have hin : s.i.toNat + x.val ≤ 4095 := by omega
  have hread (z : Reg) (hz : z ≤ x) := Memory.read_writeBytes_regBlock hwf hin hz
  refine ⟨_, _, execStRegs_ok x hin, State.fetch_ok ?_, ?_⟩
  · rw [State.setMem_pc, State.advance_pc, ← hipc]; omega
  · rw [State.setMem_pc, State.advance_pc, ← hipc, toNat_wordOfBytes]
    exact congrArg₂ (fun a b : Byte => a.toNat * 256 + b.toNat) (hread 0 (Fin.zero_le x)) (hread 1 hx)

end Sys2Proof.Machine
end

section
/-! PROOFS. The sprite draw (spec/43_display.md R121 to R123): a pixel is flipped exactly when the sprite covers it, and VF tells
whether a covered pixel was on. -/

namespace Sys2Proof.Machine

open Sys2Proof.Safety

variable {s : State}

/-- The state a draw of `n` rows leaves. -/
def State.drawn (s : State) (x y : Reg) (n : Nat) : State :=
  ((s.setPx (s.px.xorAll (s.spriteAt x y n)).1).setReg regF (flagByte (s.px.xorAll (s.spriteAt x y n)).2)).advance

theorem exec_drw (x y : Reg) {n : Nat} (h : n = 0 ∨ s.i.toNat + n ≤ 4096) : exec (.drw x y n) s = .next (s.drawn x y n) :=
  execDrw_ok x y h

theorem flagByte_eq_one_iff (c : Bool) : flagByte c = 1 ↔ c = true := by cases c <;> decide

@[simp] theorem State.drawn_px (s : State) (x y : Reg) (n : Nat) :
    (s.drawn x y n).px = (s.px.xorAll (s.spriteAt x y n)).1 := rfl

theorem State.drawn_flag (s : State) (x y : Reg) (n : Nat) :
    (s.drawn x y n).reg 15 = flagByte (s.px.xorAll (s.spriteAt x y n)).2 :=
  State.reg_setReg_same _ regF _

theorem State.drawn_reg_ne (s : State) (x y : Reg) (n : Nat) {z : Reg} (hz : z ≠ 15) : (s.drawn x y n).reg z = s.reg z :=
  (s.setPx _).reg_setReg_ne hz _

/-- Each pixel of the sprite is flipped once (R121). -/
theorem State.drawn_pixel (s : State) (x y : Reg) {n : Nat} (hn : n < 16) (px : Fin 64) (py : Fin 32) :
    (s.drawn x y n).px.pixel px py = ((s.px.pixel px py) ^^ decide ((px, py) ∈ s.spriteAt x y n)) :=
  Display.xorAll_pixel s.px (nodup_spriteAt x y (by omega)) px py

/-- VF after a draw is the collision (R121). -/
theorem State.drawn_flag_eq_one_iff (s : State) (x y : Reg) {n : Nat} (hn : n < 16) :
    (s.drawn x y n).reg 15 = 1 ↔ ∃ px py, spriteCovers s x y n px py ∧ s.px.pixel px py = true := by
  rw [s.drawn_flag, flagByte_eq_one_iff, Display.xorAll_hit _ (nodup_spriteAt x y (by omega)), Prod.exists]
  simp only [spriteCovers_iff]

/-- Settles O34: the two facts of the pixels and the flag, and the frame of a draw. -/
theorem drawSprite : Obligations.DrawSprite := by
  intro s x y n hn
  constructor
  · intro hin
    refine ⟨_, exec_drw x y hin, fun px py hc => ?_, fun px py hc => ?_, ?_, s.drawn_flag_eq_one_iff x y hn, rfl, rfl, rfl,
      fun z hz => s.drawn_reg_ne x y n (List.ne_of_not_mem_cons hz), fun _ => rfl, ?_⟩
    · rw [spriteCovers_iff] at hc
      rw [s.drawn_pixel x y hn, decide_eq_true hc, Bool.xor_true]
    · rw [spriteCovers_iff] at hc
      rw [s.drawn_pixel x y hn, decide_eq_false hc, Bool.xor_false]
    · rw [s.drawn_flag]
      exact (flagByte_zero_or_one _).symm
    · simp [sameStack, sameTimers, sameWait, sameHostSide, State.drawn]
  · rintro ⟨h0, hout⟩
    exact ⟨_, execDrw_error x y h0 hout, State.raiseFatal_err s _⟩

/-- A draw leaves the sprite at coordinates that VF does not hold. -/
theorem State.drawn_spriteAt (s : State) {x y : Reg} (n : Nat) (hx : x ≠ 15) (hy : y ≠ 15) :
    (s.drawn x y n).spriteAt x y n = s.spriteAt x y n := by
  rw [State.spriteAt, s.drawn_reg_ne x y n hx, s.drawn_reg_ne x y n hy]
  rfl

/-- Settles O35: the second draw covers the same pixels, so it flips each again, and finds on what the first found off. -/
theorem drawTwiceRestores : Obligations.DrawTwiceRestores := by
  intro s t u x y n hn hin hx hy ht hu
  obtain rfl := Host.Outcome.next.inj ((exec_drw x y hin).symm.trans ht)
  obtain rfl := Host.Outcome.next.inj ((exec_drw (s := s.drawn x y n) x y hin).symm.trans hu)
  have hsprite := s.drawn_spriteAt n hx hy
  constructor
  · intro px py
    rw [State.drawn_pixel _ x y hn, hsprite, s.drawn_pixel x y hn, Bool.xor_assoc, Bool.xor_self, Bool.xor_false]
  · rw [State.drawn_flag_eq_one_iff _ x y hn]
    refine exists_congr fun px => exists_congr fun py => ?_
    rw [spriteCovers_iff, spriteCovers_iff, hsprite]
    refine and_congr_right fun hc => ?_
    rw [s.drawn_pixel x y hn, decide_eq_true hc, Bool.xor_true, Bool.not_eq_true']

end Sys2Proof.Machine
end

section
/-! PROOFS. Keys and counters (spec/44_input_timers.md R130 to R137): the key skips, the counter instructions, and the wait of
FX0A until a press. -/

namespace Sys2Proof.Machine

open Sys2Proof.Safety

variable {s : State}

/-- The key of R136, by its number. -/
theorem keyOf_eq {b : Byte} {k : Key} (h : k.val = b.toNat % 16) : keyOf b = k := Fin.ext h.symm

/-- Settles O36: both skips are `skipIf` of the level of the key. -/
theorem keySkips : Obligations.KeySkips := by
  intro s x k hk
  have hkey := keyOf_eq hk
  constructor
  · refine ⟨_, rfl, ?_, onlyPc_skipIf s _⟩
    rw [hkey, State.skipIf_pc]
  · refine ⟨_, rfl, ?_, onlyPc_skipIf s _⟩
    rw [hkey, State.skipIf_pc]
    cases s.key k <;> rfl

/-- Settles O37: one write of V[X], and one write of DT. -/
theorem delayCounterAccess : Obligations.DelayCounterAccess := by
  intro s x
  constructor
  · exact ⟨_, rfl, s.setReg_advance_reg_same x _, rfl, onlyRegs_setReg s x _⟩
  · refine ⟨(s.setDt (s.reg x)).advance, rfl, rfl, rfl, rfl, fun _ => rfl, rfl, ?_⟩
    simp [sameMem, sameStack, sameDisplay, sameWait, sameHostSide]

/-- Settles O38: one write of ST, which `toneActive` reads. -/
theorem soundCounterWrite : Obligations.SoundCounterWrite := by
  intro s x
  refine ⟨(s.setSt (s.reg x)).advance, rfl, rfl, rfl, ?_, rfl, fun _ => rfl, rfl, ?_⟩
  · simp [State.toneActive, ← BitVec.toNat_inj]
  · simp [sameMem, sameStack, sameDisplay, sameWait, sameHostSide]

/-! ## The wait for a key (R133, R137) -/

theorem exec_ldVxKey_latched (x : Reg) (h : s.latchValid = true) :
    exec (.ldVxKey x) s = .next (s.consumeKey.setReg x (BitVec.ofNat 8 s.lastKey.val)).advance :=
  if_pos h

theorem exec_ldVxKey_unlatched (x : Reg) (h : s.latchValid = false) : exec (.ldVxKey x) s = .next s.park := by
  simp [exec, execLdVxKey, h]

/-- The number of a key fits a register. -/
theorem toNat_key (k : Key) : (BitVec.ofNat 8 k.val : Byte).toNat = k.val :=
  Nat.mod_eq_of_lt (k.isLt.trans (by decide))

/-- Settles O39: a latched press is consumed into V[X]; without one the engine parks. -/
theorem keyWait : Obligations.KeyWait := by
  intro s x
  constructor
  · intro hl
    refine ⟨_, exec_ldVxKey_latched x hl, ?_, rfl, rfl, rfl,
      fun z hz => s.consumeKey.reg_setReg_ne (List.ne_of_not_mem_cons hz) _, rfl, ?_⟩
    · rw [State.setReg_advance_reg_same, toNat_key]
    · simp [sameMem, sameStack, sameDisplay, sameTimers, sameHostSide]
  · intro hl
    refine ⟨_, exec_ldVxKey_unlatched x hl, rfl, hl, rfl, fun _ => rfl, rfl, ?_⟩
    simp [sameMem, sameStack, sameDisplay, sameTimers, sameHostSide]

section

variable {op : Word} {x : Reg}

/-- A Step on an FX0A with no latched press parks the engine. -/
theorem step_parks (hlive : s.err = none) (hf : s.fetch = .ok op) (hd : decodeWord op = .ok (.ldVxKey x))
    (hl : s.latchValid = false) : step s = .next (s.setPhase .running).park :=
  (step_decoded hlive hf hd).trans (exec_ldVxKey_unlatched x hl)

/-- A Step on an FX0A with a latched press delivers its key. -/
theorem step_delivers (hlive : s.err = none) (hf : s.fetch = .ok op) (hd : decodeWord op = .ok (.ldVxKey x))
    (hl : s.latchValid = true) :
    step s = .next ((s.setPhase .running).consumeKey.setReg x (BitVec.ofNat 8 s.lastKey.val)).advance :=
  (step_decoded hlive hf hd).trans (exec_ldVxKey_latched x hl)

/-- A press of a key that was up is latched (R160). -/
theorem State.keyDown_of_up {k : Key} (h : s.key k = false) :
    s.keyDown k = { s with keys := s.keys.set k.val true k.isLt, lastKey := k, latchValid := true } := by
  simp [State.keyDown, h]

/-- The Step on an FX0A after a key went down delivers that key and goes on. -/
theorem step_keyDown_delivers {k : Key} (hlive : s.err = none) (hf : s.fetch = .ok op)
    (hd : decodeWord op = .ok (.ldVxKey x)) (hup : s.key k = false) :
    ∃ u, step (s.keyDown k) = .next u ∧ u.pc = s.pc + 2 ∧ (u.reg x).toNat = k.val ∧ u.awaiting = false ∧
      u.latchValid = false := by
  rw [State.keyDown_of_up hup]
  refine ⟨_, step_delivers hlive hf hd rfl, rfl, ?_, rfl, rfl⟩
  rw [State.setReg_advance_reg_same, toNat_key]

end

/-- Settles O40: a parked engine is a state that a Step leaves as it is; after the press the same FX0A finds the key latched. -/
theorem keyPressEndsTheWait : Obligations.KeyPressEndsTheWait := by
  intro s op x k n hlive hf hd hl hup
  have hpark : step (s.setPhase .running).park = .next (s.setPhase .running).park := step_parks hlive hf hd hl
  have hrun := (core_run_succ (step_parks hlive hf hd hl) n).trans (core_run_of_step_self hpark n)
  obtain ⟨u, hu⟩ := step_keyDown_delivers (s := (s.setPhase .running).park) hlive hf hd hup
  exact ⟨_, u, hrun, rfl, rfl, fun _ => rfl, hu⟩

end Sys2Proof.Machine
end

section
/-! PROOFS. The host's moves (spec/60_exceptions.md R158 to R163; spec/70_reset_and_hazards.md R170, R171; spec/20_memory.md R52,
R53) on a live machine. -/

namespace Sys2Proof.Machine

open Sys2Proof.Safety

variable {s : State}

/-- A host move of a live machine is enabled (R147). -/
theorem State.unlessHalted_of_live (h : s.err = none) (t : State) : s.unlessHalted t = .next t := by
  simp [State.unlessHalted, State.halted, h]

/-- The tone ends with a count from 1 to 0, and an end already pending stays (R158). -/
theorem State.tick_toneEnd (s : State) : s.tick.toneEnd = true ↔ s.toneEnd = true ∨ s.st.toNat = 1 := by
  by_cases h : s.st = 1 <;> simp [State.tick, h, ← BitVec.toNat_inj, or_comm]

/-- Settles O41: both counters count down, clamped at 0. -/
theorem tickCountsDown : Obligations.TickCountsDown := by
  intro s hlive
  refine ⟨s.tick, State.unlessHalted_of_live hlive _, toNat_countDown _, toNat_countDown _, s.tick_toneEnd, rfl,
    fun _ => rfl, rfl, fun _ => rfl, ⟨rfl, fun _ => rfl⟩, ⟨fun _ _ => rfl, rfl⟩, ⟨rfl, rfl⟩, fun _ => rfl, rfl, hlive, rfl⟩

/-- A press of a key already down changes nothing (R160). -/
theorem State.keyDown_of_down {k : Key} (h : s.key k = true) : s.keyDown k = s := by simp [State.keyDown, h]

/-- What a press changes: the key, and where it was up the latch (R160). -/
theorem State.keyDown_keys (s : State) (k j : Key) : (s.keyDown k).key j = if j = k then true else s.key j := by
  cases h : s.key k with
  | true =>
    rw [State.keyDown_of_down h]
    split
    · next hj => rw [hj, h]
    · rfl
  | false =>
    rw [State.keyDown_of_up h]
    exact get_set_key s.keys k j true

/-- A press touches keys and latch alone. -/
theorem State.keyDown_frame (s : State) (k : Key) :
    (s.keyDown k).awaiting = s.awaiting ∧ (s.keyDown k).toneEnd = s.toneEnd ∧ (s.keyDown k).err = s.err ∧
      (s.keyDown k).phase = s.phase ∧ (s.keyDown k).pc = s.pc ∧ sameRegs s (s.keyDown k) ∧ (s.keyDown k).i = s.i ∧
      sameMem s (s.keyDown k) ∧ sameStack s (s.keyDown k) ∧ sameDisplay s (s.keyDown k) ∧ sameTimers s (s.keyDown k) := by
  cases h : s.key k with
  | true =>
    rw [State.keyDown_of_down h]
    simp [sameRegs, sameMem, sameStack, sameDisplay, sameTimers]
  | false =>
    rw [State.keyDown_of_up h]
    exact ⟨rfl, rfl, rfl, rfl, rfl, fun _ => rfl, rfl, fun _ => rfl, ⟨rfl, fun _ => rfl⟩, ⟨fun _ _ => rfl, rfl⟩, ⟨rfl, rfl⟩⟩

/-- Settles O42: a press latches where the key was up, a release writes the key alone. -/
theorem keyMoves : Obligations.KeyMoves := by
  intro s k hlive
  constructor
  · obtain ⟨hwait, htone, herr, hrest⟩ := s.keyDown_frame k
    refine ⟨s.keyDown k, State.unlessHalted_of_live hlive _, ?_, fun j hj => ?_, fun hdown => ?_, fun hup => ?_, hwait, htone,
      herr.trans hlive, hrest⟩
    · rw [State.keyDown_keys, if_pos rfl]
    · rw [State.keyDown_keys, if_neg hj]
    · rw [State.keyDown_of_down hdown]
      exact ⟨rfl, rfl⟩
    · rw [State.keyDown_of_up hup]
      exact ⟨rfl, rfl⟩
  · have hkey (j : Key) := get_set_key s.keys k j false
    exact ⟨s.keyUp k, State.unlessHalted_of_live hlive _, (hkey k).trans (if_pos rfl),
      fun j hj => (hkey j).trans (if_neg hj), rfl, ⟨rfl, rfl⟩, rfl, hlive, rfl, rfl, fun _ => rfl, rfl, fun _ => rfl,
      ⟨rfl, fun _ => rfl⟩, ⟨fun _ _ => rfl, rfl⟩, ⟨rfl, rfl⟩⟩

/-- Settles O43: each move is one write of one bit. -/
theorem hostAcknowledgements : Obligations.HostAcknowledgements := by
  intro s hlive
  constructor
  · exact ⟨s.clearDirty, State.unlessHalted_of_live hlive _, rfl, fun _ _ => rfl, rfl, fun _ => rfl, rfl, fun _ => rfl,
      ⟨rfl, fun _ => rfl⟩, ⟨rfl, rfl⟩, ⟨rfl, rfl⟩, ⟨fun _ => rfl, rfl, rfl, rfl, rfl⟩⟩
  · exact ⟨s.ackToneEnd, State.unlessHalted_of_live hlive _, rfl, rfl, fun _ => rfl, rfl, fun _ => rfl, ⟨rfl, fun _ => rfl⟩,
      ⟨fun _ _ => rfl, rfl⟩, ⟨rfl, rfl⟩, ⟨rfl, rfl⟩, fun _ => rfl, rfl, hlive, rfl⟩

/-- Settles O44: memory that lists nothing reads as its reset contents, and the vectors hold one value. -/
theorem resetPutsTheStatedValues : Obligations.ResetPutsTheStatedValues := by
  intro s
  exact ⟨s.resetMove, rfl, Vector.get_replicate 16 0, rfl, rfl, rfl, Vector.get_replicate 16 0, fun a ha => if_pos ha,
    fun a ha => if_neg (Nat.not_lt.2 ha), Display.pixel_blank, rfl, rfl, rfl, rfl,
    Vector.get_replicate 16 false, rfl, rfl, rfl, rfl, rfl⟩

/-- A Load of a live Fresh machine is enabled (R52). -/
theorem move_load_of_fresh (hlive : s.err = none) (hfresh : s.phase = .fresh) (bytes : List Byte) :
    move s (.load bytes) = .next (s.load bytes) := by
  simp [move, State.halted, hlive, hfresh]

/-- A program that fits is one block of writes from 0x200 on (R52). -/
theorem State.load_ok {bytes : List Byte} (h : bytes.length ≤ 3584) :
    s.load bytes = (s.setMem (s.mem.writeBytes 0x200 bytes)).setPhase .loaded := if_pos h

/-- A program that does not fit raises (R53). -/
theorem State.load_error {bytes : List Byte} (h : 3584 < bytes.length) : s.load bytes = s.raiseFatal .romTooLarge :=
  if_neg (Nat.not_le.2 h)

/-- Settles O45: a program that fits ends in memory, so every byte of it is read back. -/
theorem loadPlacesTheProgram : Obligations.LoadPlacesTheProgram := by
  intro s bytes hlive hwf
  refine ⟨fun hfresh hlen => ?_, fun hfresh hlen => ?_, fun hphase => ?_⟩
  · have hin : 0x200 + bytes.length ≤ 4096 := by omega
    rw [move_load_of_fresh hlive hfresh, State.load_ok hlen]
    exact ⟨_, rfl, fun k hk => Memory.read_writeBytes_inside hin hwf hk, fun b hb => Memory.read_writeBytes_outside hin hwf hb,
      rfl, rfl, fun _ => rfl, rfl, ⟨rfl, fun _ => rfl⟩, ⟨fun _ _ => rfl, rfl⟩, ⟨rfl, rfl⟩, ⟨rfl, rfl⟩, fun _ => rfl, rfl, rfl,
      hlive⟩
  · rw [move_load_of_fresh hlive hfresh, State.load_error hlen]
    exact ⟨_, rfl, State.raiseFatal_err s _⟩
  · simp [move, State.halted, hlive, hphase]

end Sys2Proof.Machine
end
